-- ==== Sys2Proof/Word.lean ====
section
/-! DEFINITION. The word types of the CORE: bytes, instruction words, nibbles, 12-bit addresses and register numbers
(00_scope.md rules R10, R11; 30_encoding.md rule R56). -/

namespace Sys2Proof

/-- An 8-bit unsigned byte: a general register, a timer, a memory cell, the `nn` field (R10, R17). -/
abbrev Byte := BitVec 8

/-- A 16-bit unsigned word: an instruction word, `pc`, `I`, a stack entry (R20, R22, R23, R56). -/
abbrev Word := BitVec 16

/-- A 4-bit field of an instruction word (R56; GLOSSARY "nibble"). -/
abbrev Nibble := BitVec 4

/-- The 12-bit field `nnn` of an instruction word (R56). -/
abbrev Addr12 := BitVec 12

/-- The number of a general register, 0 to 15: no register index can be out of range (R38). -/
abbrev RegIx := Fin 16

/-- The number of a key, 0x0 to 0xF (R31). -/
abbrev KeyIx := Fin 16

end Sys2Proof
end

