-- ==== Sys2Proof/Config.lean ====
section
/-! DEFINITION. The fixed parameters of the CORE (00_scope.md rule R8), the font (10_state.md rule R37) and the one
free value, the random byte of CXNN (41_register_alu.md rule R106).

The behaviour switches of R8 have the values R8 shows: `SHIFT_SOURCE` = Vx, `LOGIC_RESETS_VF`, `FX1E_SETS_VF` and
`LOADSTORE_INCREMENTS_I` = false are what the meanings in Machine/Alu.lean and Machine/IndexMemory.lean do (log entries 6,
7, 9, 10); `STRICT_SUBSELECT` is `strictSubselect` below. `STEPS_PER_TICK` and `TICK_RATE` (R9) are the host's, and no
definition depends on them (log entry 22). -/

namespace Sys2Proof.Config

/-- `MEM_SIZE`, addresses 0x000 to 0xFFF (R8, R40). -/
@[simp] abbrev memSize : Nat := 4096

/-- `STACK_CAPACITY` (R8, R23; log entry 19). -/
@[simp] abbrev stackCapacity : Nat := 16

/-- `DISPLAY_W`, columns (R8, R29). -/
@[simp] abbrev displayWidth : Nat := 64

/-- `DISPLAY_H`, rows (R8, R29). -/
@[simp] abbrev displayHeight : Nat := 32

/-- `SPRITE_W`, pixels of a sprite row (R8, R123). -/
@[simp] abbrev spriteWidth : Nat := 8

/-- `PROGRAM_START`, where the ROM is loaded and `pc` starts (R8, R34, R166). -/
@[simp] abbrev programStart : Nat := 0x200

/-- `FONT_GLYPH_BYTES` (R8, R36). -/
@[simp] abbrev fontGlyphBytes : Nat := 5

/-- `MAX_ROM`, the longest ROM that loads (R8, R167). -/
@[simp] abbrev maxRom : Nat := memSize - programStart

/-- `STRICT_SUBSELECT` (R8, R63, R64): false, so the nibble a family does not select on is not examined (log entry 5). -/
@[simp] abbrev strictSubselect : Bool := false

/-- Glyphs 0 to 7 of the default `FONT` (R37; PRESUMED, log entry 3). -/
def fontLow : List Byte :=
  [0xF0, 0x90, 0x90, 0x90, 0xF0,  0x20, 0x60, 0x20, 0x20, 0x70,
   0xF0, 0x10, 0xF0, 0x80, 0xF0,  0xF0, 0x10, 0xF0, 0x10, 0xF0,
   0x90, 0x90, 0xF0, 0x10, 0x10,  0xF0, 0x80, 0xF0, 0x10, 0xF0,
   0xF0, 0x80, 0xF0, 0x90, 0xF0,  0xF0, 0x10, 0x20, 0x40, 0x40]

/-- Glyphs 8 to F of the default `FONT` (R37; PRESUMED, log entry 3). -/
def fontHigh : List Byte :=
  [0xF0, 0x90, 0xF0, 0x90, 0xF0,  0xF0, 0x90, 0xF0, 0x10, 0xF0,
   0xF0, 0x90, 0xF0, 0x90, 0x90,  0xE0, 0x90, 0xE0, 0x90, 0xE0,
   0xF0, 0x80, 0x80, 0x80, 0xF0,  0xE0, 0x90, 0x90, 0x90, 0xE0,
   0xF0, 0x80, 0xF0, 0x80, 0xF0,  0xF0, 0x80, 0xF0, 0x80, 0x80]

/-- `FONT`: 16 glyphs of 5 bytes, glyph `d` at offset `5 * d`, top row first (R36, R37; PRESUMED, log entry 3). -/
def font : List Byte := fontLow ++ fontHigh

/-- `RANDOM`: the byte the oracle gives at draw number `k`. It has no body, so nothing can evaluate it and a claim
holds for every sequence of draws (R9, R106; log entry 1). -/
opaque freeByte : Nat → Byte

end Sys2Proof.Config
end

