-- ==== Sys2Proof/Syntax.lean ====
section
/-! DEFINITION. The 34 instructions (30_encoding.md rules R61, R62), one constructor per row of spec/opcode_table.json.

The operands are the fields the word has beside its selecting bits, the ignored ones of CLS, RET, SE Vx,Vy, SNE Vx,Vy,
SHR and SHL among them, so that a word and its instruction determine each other (log entry 5). -/

namespace Sys2Proof

/-- An instruction of the CORE. `x` and `y` are register numbers, `nn`, `nnn` and `n` the immediates of R58; a `Nibble` named
`skip` is a nibble the selection ignores (the `?` of R62). -/
inductive Instr where
  /-- `00E0` CLS (R121). -/
  | cls (skip : Nibble)
  /-- `00EE` RET (R75). -/
  | ret (skip : Nibble)
  /-- `1nnn` JP nnn (R76). -/
  | jp (nnn : Addr12)
  /-- `2nnn` CALL nnn (R77). -/
  | call (nnn : Addr12)
  /-- `3xnn` SE Vx, nn (R79). -/
  | seImm (x : RegIx) (nn : Byte)
  /-- `4xnn` SNE Vx, nn (R80). -/
  | sneImm (x : RegIx) (nn : Byte)
  /-- `5xy0` SE Vx, Vy (R81). -/
  | seReg (x y : RegIx) (skip : Nibble)
  /-- `6xnn` LD Vx, nn (R93). -/
  | ldImm (x : RegIx) (nn : Byte)
  /-- `7xnn` ADD Vx, nn (R94). -/
  | addImm (x : RegIx) (nn : Byte)
  /-- `8xy0` LD Vx, Vy (R95). -/
  | ldReg (x y : RegIx)
  /-- `8xy1` OR Vx, Vy (R96). -/
  | orReg (x y : RegIx)
  /-- `8xy2` AND Vx, Vy (R97). -/
  | andReg (x y : RegIx)
  /-- `8xy3` XOR Vx, Vy (R98). -/
  | xorReg (x y : RegIx)
  /-- `8xy4` ADD Vx, Vy (R99). -/
  | addReg (x y : RegIx)
  /-- `8xy5` SUB Vx, Vy (R100). -/
  | subReg (x y : RegIx)
  /-- `8xy6` SHR Vx (R101); `y` is not read. -/
  | shr (x y : RegIx)
  /-- `8xy7` SUBN Vx, Vy (R102). -/
  | subnReg (x y : RegIx)
  /-- `8xyE` SHL Vx (R103); `y` is not read. -/
  | shl (x y : RegIx)
  /-- `9xy0` SNE Vx, Vy (R82). -/
  | sneReg (x y : RegIx) (skip : Nibble)
  /-- `Annn` LD I, nnn (R110). -/
  | ldI (nnn : Addr12)
  /-- `Bnnn` JP V0, nnn (R83). -/
  | jpV0 (nnn : Addr12)
  /-- `Cxnn` RND Vx, nn (R105). -/
  | rnd (x : RegIx) (nn : Byte)
  /-- `Dxyn` DRW Vx, Vy, n (R122). -/
  | drw (x y : RegIx) (n : Nibble)
  /-- `Ex9E` SKP Vx (R130). -/
  | skp (x : RegIx)
  /-- `ExA1` SKNP Vx (R131). -/
  | sknp (x : RegIx)
  /-- `Fx07` LD Vx, DT (R132). -/
  | ldVxDt (x : RegIx)
  /-- `Fx0A` LD Vx, K (R133). -/
  | ldVxK (x : RegIx)
  /-- `Fx15` LD DT, Vx (R134). -/
  | ldDtVx (x : RegIx)
  /-- `Fx18` LD ST, Vx (R135). -/
  | ldStVx (x : RegIx)
  /-- `Fx1E` ADD I, Vx (R111). -/
  | addIVx (x : RegIx)
  /-- `Fx29` LD F, Vx (R112). -/
  | ldFVx (x : RegIx)
  /-- `Fx33` LD B, Vx (R113). -/
  | ldBVx (x : RegIx)
  /-- `Fx55` LD [I], Vx (R114). -/
  | ldMemVx (x : RegIx)
  /-- `Fx65` LD Vx, [I] (R115). -/
  | ldVxMem (x : RegIx)
  deriving DecidableEq, Repr

end Sys2Proof
end

