-- ==== Sys2Proof/WellFormed.lean ====
section
/-! DEFINITION. Which instructions the CORE has. The ranges of the operands are in their types (R38, R58); the one check
left is `STRICT_SUBSELECT` (00_scope.md rule R8): whether the nibble a family does not select on must be 0
(30_encoding.md rules R63, R64). -/

namespace Sys2Proof

/-- The canonical instructions, those an assembler emits: CLS and RET with `x` = 0, the register skips with `n` = 0
(R63, R64). SHR and SHL may be written with any `y` (R69). -/
def Instr.canonical : Instr → Bool
  | .cls k => k == 0
  | .ret k => k == 0
  | .seReg _ _ k => k == 0
  | .sneReg _ _ k => k == 0
  | .jp _ => true
  | .call _ => true
  | .seImm _ _ => true
  | .sneImm _ _ => true
  | .ldImm _ _ => true
  | .addImm _ _ => true
  | .ldReg _ _ => true
  | .orReg _ _ => true
  | .andReg _ _ => true
  | .xorReg _ _ => true
  | .addReg _ _ => true
  | .subReg _ _ => true
  | .shr _ _ => true
  | .subnReg _ _ => true
  | .shl _ _ => true
  | .ldI _ => true
  | .jpV0 _ => true
  | .rnd _ _ => true
  | .drw _ _ _ => true
  | .skp _ => true
  | .sknp _ => true
  | .ldVxDt _ => true
  | .ldVxK _ => true
  | .ldDtVx _ => true
  | .ldStVx _ => true
  | .addIVx _ => true
  | .ldFVx _ => true
  | .ldBVx _ => true
  | .ldMemVx _ => true
  | .ldVxMem _ => true

/-- The instructions of a core whose `STRICT_SUBSELECT` is `strict` (92_eei_decisions.md D6). -/
def Instr.wellFormedWith (strict : Bool) (i : Instr) : Bool :=
  !strict || i.canonical

/-- The instructions of this core (R8: `STRICT_SUBSELECT` = false). -/
def Instr.wellFormed (i : Instr) : Bool :=
  i.wellFormedWith Config.strictSubselect

end Sys2Proof
end

