-- ==== Sys2Proof/Decode.lean ====
section
/-! DEFINITION. The decoder and the encoder (30_encoding.md): the field split of R56 and R57, the selection of R61, the
three word formats of opcode_table.json, the encoder written from the opcode map of R62, and the table itself as data. -/

namespace Sys2Proof

/-! ## Bytes and fields -/

/-- The word of two bytes, high byte first (R11, R46). -/
def wordOfBytes (hi lo : Byte) : Word := hi ++ lo

/-- The first byte of a word as it stands in memory, bits 15 to 8 (R46). -/
def highByte (w : Word) : Byte := w.extractLsb' 8 8

/-- The second byte of a word as it stands in memory, bits 7 to 0 (R46). -/
def lowByte (w : Word) : Byte := w.extractLsb' 0 8

/-- A register field as a register number (R38). -/
def regOfNibble (b : Nibble) : RegIx := b.toFin

/-- A register number as a register field (R38). -/
def nibbleOfReg (r : RegIx) : Nibble := BitVec.ofFin r

/-- The six overlapping fields of an instruction word (R56). -/
structure Fields where
  /-- `w[15:12]`, the leading nibble. -/
  f : Nibble
  /-- `w[11:8]`. -/
  x : Nibble
  /-- `w[7:4]`. -/
  y : Nibble
  /-- `w[3:0]`, the trailing nibble. -/
  n : Nibble
  /-- `w[7:0]`, the trailing byte. -/
  nn : Byte
  /-- `w[11:0]`. -/
  nnn : Addr12
  deriving DecidableEq, Repr

/-- `Decode(w)`: every word has its fields (R57). -/
def fieldsOf (w : Word) : Fields where
  f := w.extractLsb' 12 4
  x := w.extractLsb' 8 4
  y := w.extractLsb' 4 4
  n := w.extractLsb' 0 4
  nn := w.extractLsb' 0 8
  nnn := w.extractLsb' 0 12

/-- The register `x` selects. -/
def Fields.vx (d : Fields) : RegIx := regOfNibble d.x

/-- The register `y` selects. -/
def Fields.vy (d : Fields) : RegIx := regOfNibble d.y

/-! ## Selection (R61) -/

/-- Family 0, sub-selected by the trailing byte; `x` is not examined (R61, R63). -/
def selectFamily0 (d : Fields) : Option Instr :=
  if d.nn = 0xE0 then some (.cls d.x)
  else if d.nn = 0xEE then some (.ret d.x)
  else none

/-- Family 8, sub-selected by the trailing nibble (R61, R65). -/
def selectFamily8 (d : Fields) : Option Instr :=
  if d.n = 0x0 then some (.ldReg d.vx d.vy)
  else if d.n = 0x1 then some (.orReg d.vx d.vy)
  else if d.n = 0x2 then some (.andReg d.vx d.vy)
  else if d.n = 0x3 then some (.xorReg d.vx d.vy)
  else if d.n = 0x4 then some (.addReg d.vx d.vy)
  else if d.n = 0x5 then some (.subReg d.vx d.vy)
  else if d.n = 0x6 then some (.shr d.vx d.vy)
  else if d.n = 0x7 then some (.subnReg d.vx d.vy)
  else if d.n = 0xE then some (.shl d.vx d.vy)
  else none

/-- Family E, sub-selected by the trailing byte (R61, R65). -/
def selectFamilyE (d : Fields) : Option Instr :=
  if d.nn = 0x9E then some (.skp d.vx)
  else if d.nn = 0xA1 then some (.sknp d.vx)
  else none

/-- Family F, sub-selected by the trailing byte (R61, R65). -/
def selectFamilyF (d : Fields) : Option Instr :=
  if d.nn = 0x07 then some (.ldVxDt d.vx)
  else if d.nn = 0x0A then some (.ldVxK d.vx)
  else if d.nn = 0x15 then some (.ldDtVx d.vx)
  else if d.nn = 0x18 then some (.ldStVx d.vx)
  else if d.nn = 0x1E then some (.addIVx d.vx)
  else if d.nn = 0x29 then some (.ldFVx d.vx)
  else if d.nn = 0x33 then some (.ldBVx d.vx)
  else if d.nn = 0x55 then some (.ldMemVx d.vx)
  else if d.nn = 0x65 then some (.ldVxMem d.vx)
  else none

/-- `Select` on the fields: the instruction the leading nibble and the sub-selector name, or none (R61, R66). All 16
leading nibbles have a family, so the last `none` is never reached. -/
def selectFields (d : Fields) : Option Instr :=
  match d.f.toNat with
  | 0x0 => selectFamily0 d
  | 0x1 => some (.jp d.nnn)
  | 0x2 => some (.call d.nnn)
  | 0x3 => some (.seImm d.vx d.nn)
  | 0x4 => some (.sneImm d.vx d.nn)
  | 0x5 => some (.seReg d.vx d.vy d.n)
  | 0x6 => some (.ldImm d.vx d.nn)
  | 0x7 => some (.addImm d.vx d.nn)
  | 0x8 => selectFamily8 d
  | 0x9 => some (.sneReg d.vx d.vy d.n)
  | 0xA => some (.ldI d.nnn)
  | 0xB => some (.jpV0 d.nnn)
  | 0xC => some (.rnd d.vx d.nn)
  | 0xD => some (.drw d.vx d.vy d.n)
  | 0xE => selectFamilyE d
  | 0xF => selectFamilyF d
  | _ => none

/-- The instruction a word is, or none where the word is unknown (R61, R66): `Select` after `Decode`, less the words a strict
core would refuse (R8 `STRICT_SUBSELECT`). -/
def decodeWord (w : Word) : Option Instr :=
  (selectFields (fieldsOf w)).filter Instr.wellFormed

/-- Why bytes are no instruction. -/
inductive DecodeError where
  /-- Fewer than two bytes are left: an instruction is exactly 2 bytes long (R59). -/
  | tooShort (left : Nat)
  /-- The word selects no instruction (R66). -/
  | unknownOpcode (w : Word)
  deriving DecidableEq, Repr

/-- The instruction at the head of some bytes and the bytes after it (R57, R59, R61). -/
def decode : List Byte → Except DecodeError (Instr × List Byte)
  | hi :: lo :: rest =>
    match decodeWord (wordOfBytes hi lo) with
    | some i => .ok (i, rest)
    | none => .error (.unknownOpcode (wordOfBytes hi lo))
  | [_] => .error (.tooShort 1)
  | [] => .error (.tooShort 0)

/-! ## The encoder (R56, R62) -/

/-- Format `f-nnn`. -/
def wordNNN (f : Nibble) (nnn : Addr12) : Word := f ++ nnn

/-- Format `f-x-nn`. -/
def wordXNN (f x : Nibble) (nn : Byte) : Word := f ++ (x ++ nn : BitVec 12)

/-- Format `f-x-y-n`. -/
def wordXYN (f x y n : Nibble) : Word := f ++ (x ++ (y ++ n : BitVec 8) : BitVec 12)

/-- The word of an instruction, row by row of the opcode map (R62). -/
def encode : Instr → Word
  | .cls k => wordXNN 0x0 k 0xE0
  | .ret k => wordXNN 0x0 k 0xEE
  | .jp nnn => wordNNN 0x1 nnn
  | .call nnn => wordNNN 0x2 nnn
  | .seImm x nn => wordXNN 0x3 (nibbleOfReg x) nn
  | .sneImm x nn => wordXNN 0x4 (nibbleOfReg x) nn
  | .seReg x y k => wordXYN 0x5 (nibbleOfReg x) (nibbleOfReg y) k
  | .ldImm x nn => wordXNN 0x6 (nibbleOfReg x) nn
  | .addImm x nn => wordXNN 0x7 (nibbleOfReg x) nn
  | .ldReg x y => wordXYN 0x8 (nibbleOfReg x) (nibbleOfReg y) 0x0
  | .orReg x y => wordXYN 0x8 (nibbleOfReg x) (nibbleOfReg y) 0x1
  | .andReg x y => wordXYN 0x8 (nibbleOfReg x) (nibbleOfReg y) 0x2
  | .xorReg x y => wordXYN 0x8 (nibbleOfReg x) (nibbleOfReg y) 0x3
  | .addReg x y => wordXYN 0x8 (nibbleOfReg x) (nibbleOfReg y) 0x4
  | .subReg x y => wordXYN 0x8 (nibbleOfReg x) (nibbleOfReg y) 0x5
  | .shr x y => wordXYN 0x8 (nibbleOfReg x) (nibbleOfReg y) 0x6
  | .subnReg x y => wordXYN 0x8 (nibbleOfReg x) (nibbleOfReg y) 0x7
  | .shl x y => wordXYN 0x8 (nibbleOfReg x) (nibbleOfReg y) 0xE
  | .sneReg x y k => wordXYN 0x9 (nibbleOfReg x) (nibbleOfReg y) k
  | .ldI nnn => wordNNN 0xA nnn
  | .jpV0 nnn => wordNNN 0xB nnn
  | .rnd x nn => wordXNN 0xC (nibbleOfReg x) nn
  | .drw x y n => wordXYN 0xD (nibbleOfReg x) (nibbleOfReg y) n
  | .skp x => wordXNN 0xE (nibbleOfReg x) 0x9E
  | .sknp x => wordXNN 0xE (nibbleOfReg x) 0xA1
  | .ldVxDt x => wordXNN 0xF (nibbleOfReg x) 0x07
  | .ldVxK x => wordXNN 0xF (nibbleOfReg x) 0x0A
  | .ldDtVx x => wordXNN 0xF (nibbleOfReg x) 0x15
  | .ldStVx x => wordXNN 0xF (nibbleOfReg x) 0x18
  | .addIVx x => wordXNN 0xF (nibbleOfReg x) 0x1E
  | .ldFVx x => wordXNN 0xF (nibbleOfReg x) 0x29
  | .ldBVx x => wordXNN 0xF (nibbleOfReg x) 0x33
  | .ldMemVx x => wordXNN 0xF (nibbleOfReg x) 0x55
  | .ldVxMem x => wordXNN 0xF (nibbleOfReg x) 0x65

/-- The two bytes of an instruction, high byte first (R46, R59). -/
def encodeBytes (i : Instr) : List Byte := [highByte (encode i), lowByte (encode i)]

/-! ## The opcode table as data (R62, opcode_table.json) -/

/-- A row of opcode_table.json: its mnemonic, and the bits that select it. -/
structure OpcodeRow where
  mnemonic : String
  pattern : Word
  mask : Word
  deriving DecidableEq, Repr

/-- Whether a word is one of the row's words. -/
def OpcodeRow.covers (r : OpcodeRow) (w : Word) : Bool := w &&& r.mask == r.pattern

/-- The rows of families 0 to 7. -/
def opcodeTableLow : List OpcodeRow :=
  [⟨"CLS", 0x00E0, 0xF0FF⟩, ⟨"RET", 0x00EE, 0xF0FF⟩, ⟨"JP_nnn", 0x1000, 0xF000⟩, ⟨"CALL_nnn", 0x2000, 0xF000⟩,
   ⟨"SE_Vx__nn", 0x3000, 0xF000⟩, ⟨"SNE_Vx__nn", 0x4000, 0xF000⟩, ⟨"SE_Vx__Vy", 0x5000, 0xF000⟩,
   ⟨"LD_Vx__nn", 0x6000, 0xF000⟩, ⟨"ADD_Vx__nn", 0x7000, 0xF000⟩]

/-- The rows of family 8. -/
def opcodeTableMid : List OpcodeRow :=
  [⟨"LD_Vx__Vy", 0x8000, 0xF00F⟩, ⟨"OR_Vx__Vy", 0x8001, 0xF00F⟩, ⟨"AND_Vx__Vy", 0x8002, 0xF00F⟩,
   ⟨"XOR_Vx__Vy", 0x8003, 0xF00F⟩, ⟨"ADD_Vx__Vy", 0x8004, 0xF00F⟩, ⟨"SUB_Vx__Vy", 0x8005, 0xF00F⟩,
   ⟨"SHR_Vx", 0x8006, 0xF00F⟩, ⟨"SUBN_Vx__Vy", 0x8007, 0xF00F⟩, ⟨"SHL_Vx", 0x800E, 0xF00F⟩]

/-- The rows of families 9 to F. -/
def opcodeTableHigh : List OpcodeRow :=
  [⟨"SNE_Vx__Vy", 0x9000, 0xF000⟩, ⟨"LD_I__nnn", 0xA000, 0xF000⟩, ⟨"JP_V0__nnn", 0xB000, 0xF000⟩,
   ⟨"RND_Vx__nn", 0xC000, 0xF000⟩, ⟨"DRW_Vx__Vy__n", 0xD000, 0xF000⟩, ⟨"SKP_Vx", 0xE09E, 0xF0FF⟩,
   ⟨"SKNP_Vx", 0xE0A1, 0xF0FF⟩, ⟨"LD_Vx__DT", 0xF007, 0xF0FF⟩, ⟨"LD_Vx__K", 0xF00A, 0xF0FF⟩,
   ⟨"LD_DT__Vx", 0xF015, 0xF0FF⟩, ⟨"LD_ST__Vx", 0xF018, 0xF0FF⟩, ⟨"ADD_I__Vx", 0xF01E, 0xF0FF⟩,
   ⟨"LD_F__Vx", 0xF029, 0xF0FF⟩, ⟨"LD_B__Vx", 0xF033, 0xF0FF⟩, ⟨"LD__I___Vx", 0xF055, 0xF0FF⟩,
   ⟨"LD_Vx___I", 0xF065, 0xF0FF⟩]

/-- The 34 rows, in the table's order. -/
def opcodeTable : List OpcodeRow := opcodeTableLow ++ opcodeTableMid ++ opcodeTableHigh

/-- The mnemonic of an instruction's row. -/
def Instr.mnemonic : Instr → String
  | .cls _ => "CLS"
  | .ret _ => "RET"
  | .jp _ => "JP_nnn"
  | .call _ => "CALL_nnn"
  | .seImm _ _ => "SE_Vx__nn"
  | .sneImm _ _ => "SNE_Vx__nn"
  | .seReg _ _ _ => "SE_Vx__Vy"
  | .ldImm _ _ => "LD_Vx__nn"
  | .addImm _ _ => "ADD_Vx__nn"
  | .ldReg _ _ => "LD_Vx__Vy"
  | .orReg _ _ => "OR_Vx__Vy"
  | .andReg _ _ => "AND_Vx__Vy"
  | .xorReg _ _ => "XOR_Vx__Vy"
  | .addReg _ _ => "ADD_Vx__Vy"
  | .subReg _ _ => "SUB_Vx__Vy"
  | .shr _ _ => "SHR_Vx"
  | .subnReg _ _ => "SUBN_Vx__Vy"
  | .shl _ _ => "SHL_Vx"
  | .sneReg _ _ _ => "SNE_Vx__Vy"
  | .ldI _ => "LD_I__nnn"
  | .jpV0 _ => "JP_V0__nnn"
  | .rnd _ _ => "RND_Vx__nn"
  | .drw _ _ _ => "DRW_Vx__Vy__n"
  | .skp _ => "SKP_Vx"
  | .sknp _ => "SKNP_Vx"
  | .ldVxDt _ => "LD_Vx__DT"
  | .ldVxK _ => "LD_Vx__K"
  | .ldDtVx _ => "LD_DT__Vx"
  | .ldStVx _ => "LD_ST__Vx"
  | .addIVx _ => "ADD_I__Vx"
  | .ldFVx _ => "LD_F__Vx"
  | .ldBVx _ => "LD_B__Vx"
  | .ldMemVx _ => "LD__I___Vx"
  | .ldVxMem _ => "LD_Vx___I"

/-! ## The host's question -/

/-- The word whose bits are `w`, numbered as opcode_table.json numbers them: one 16-bit word, bits above `nbits` zero. -/
def tableWord (nbits w : Nat) : Word := BitVec.ofNat 16 (w % 2 ^ nbits)

/-- The instruction the decoder reads from the bytes of that word, laid out high byte first (R46). -/
def decodeTableWord (nbits w : Nat) : Option Instr :=
  match decode [highByte (tableWord nbits w), lowByte (tableWord nbits w)] with
  | .ok (i, _) => some i
  | .error _ => none

end Sys2Proof
end

