-- ==== Sys2Proof/Machine/State.lean ====
section
/-! DEFINITION. The state of the CORE (10_state.md rule R16: "exactly this tuple"), the error kinds (60_exceptions.md rule
R140), and the state right after reset (10_state.md rule R34). -/

namespace Sys2Proof.Machine

/-- `mem` (R16, R40): the bytes that differ from the reset contents, by rising address (log entry 26). -/
abbrev Memory := List Host.Cell

/-- `display[y][x]`: 32 rows of 64 pixels, `true` lit (R16, R29; log entry 31). -/
abbrev Display := Vector (Vector Bool 64) 32

/-- The architectural state (R16), and `draws`, the model's own. -/
structure State where
  /-- `V0` to `VF` (R17). -/
  v : Vector Byte 16
  /-- The index register `I` (R22). -/
  i : Word
  /-- The program counter (R20). -/
  pc : Word
  /-- The return addresses, oldest first; `SP` is its length (R23; log entry 18). -/
  stack : List Word
  /-- The delay timer `DT` (R27). -/
  dt : Byte
  /-- The sound timer `ST` (R28). -/
  st : Byte
  /-- The framebuffer (R29). -/
  display : Display
  /-- The keypad, `true` pressed (R31). -/
  key : Vector Bool 16
  /-- The memory (R35, R40). -/
  mem : Memory
  /-- The MODEL's own: how many bytes the random oracle has given since power-on, over every `load`; it selects the next free value
  (log entry 1). -/
  draws : Nat
  deriving DecidableEq, Repr

/-- The error kinds of R140 with the information of R141 (log entry 28). An error ends the transaction and leaves the state as it
was (R143), so each is SAFE: the model stops where the CORE reports to its host (log entry 4). -/
inductive Fault where
  /-- Code 0. Raised by nothing: decoding is total (R140, R147; log entry 29). Safe. -/
  | decodeImpossible
  /-- Code 1. Raised by `step` when the word at `pc` selects no instruction; info: the word (R66, R140, R141). Safe. -/
  | unknownOpcode (w : Word)
  /-- Code 2. Raised by 2NNN with a full stack; info: `pc` (R24, R77, R141). Safe. -/
  | stackOverflow (pc : Word)
  /-- Code 3. Raised by 00EE with an empty stack; info: `pc` (R25, R75, R141). Safe. -/
  | stackUnderflow (pc : Word)
  /-- Code 4. Raised by the fetch (info: `pc`) and by FX33, FX55, FX65 and DXYN (info: the lowest address of the access above
  0xFFF) (R45, R49, R141). Safe. -/
  | memoryOutOfBounds (addr : Nat)
  /-- Code 5. Raised by DXYN; info: `V[x]`, `V[y]`, `n` (R122, R141). Safe. -/
  | invalidDrawArgs (vx vy : Byte) (n : Nibble)
  /-- Code 6. Raised by `load` only; info: the ROM's length (R140, R141, R167). Safe. -/
  | romTooLarge (len : Nat)
  deriving DecidableEq, Repr

/-- Why the model gives a step no meaning. -/
inductive Refusal where
  /-- The instruction has no meaning in this model; raised by a refused arm of `exec`, of which there is none. Safe. -/
  | notModelled (mnemonic : String)
  deriving DecidableEq, Repr

/-- The state after `load` of an empty ROM (R34, R165): `pc` at 0x200, the stack empty, memory at its reset contents, and every
other piece of state 0 or false (the spec's own choice, D24; log entry 2). `draws` is 0 at power-on (log entry 1). -/
def State.reset : State where
  v := Vector.replicate 16 0
  i := 0
  pc := 0x200
  stack := []
  dt := 0
  st := 0
  display := Vector.replicate 32 (Vector.replicate 64 false)
  key := Vector.replicate 16 false
  mem := []
  draws := 0

end Sys2Proof.Machine
end

