-- ==== Sys2Proof/Machine/Ops.lean ====
section
/-! DEFINITION. The named operations over memory, registers, stack and `pc`, and the one way an error is raised
(20_memory.md; 10_state.md rules R24, R25; 40_control_flow.md rules R72, R73, R78; 60_exceptions.md rule R143). -/

namespace Sys2Proof.Machine

/-! ## Memory as data -/

/-- What an address reads as while nothing has written it: the font from address 0 (R36, R37), zero elsewhere (R34, R41; log
entries 2, 3, 26). -/
def resetByte (a : Nat) : Byte := Config.font.getD a 0

/-- The byte at an address: the first listed one, else the reset contents. -/
def Memory.read : Memory → Nat → Byte
  | [], a => resetByte a
  | c :: rest, a => if c.1 = a then c.2 else Memory.read rest a

/-- Memory without an entry for an address. -/
def Memory.erase (m : Memory) (a : Nat) : Memory := m.filter fun c => c.1 != a

/-- Memory with an entry put before the first one whose address is not lower. -/
def Memory.insert (a : Nat) (b : Byte) : Memory → Memory
  | [] => [(a, b)]
  | c :: rest => if c.1 < a then c :: Memory.insert a b rest else (a, b) :: c :: rest

/-- `MemWrite(a, 1, b)` on the memory itself, `mem[a] <- b`: an entry is kept only where the byte differs from the reset contents (R44; log entries 25, 26). -/
def Memory.write (m : Memory) (a : Nat) (b : Byte) : Memory :=
  if b = resetByte a then m.erase a else (m.erase a).insert a b

/-- Writes bytes at consecutive ascending addresses (R47). -/
def Memory.writeBytes (m : Memory) (a : Nat) : List Byte → Memory
  | [] => m
  | b :: rest => Memory.writeBytes (m.write a b) (a + 1) rest

/-- The `count` bytes from an address on, ascending (R47). -/
def Memory.readBytes (m : Memory) (a : Nat) : Nat → List Byte
  | 0 => []
  | count + 1 => m.read a :: Memory.readBytes m (a + 1) count

/-- The canonical form: addresses strictly rising and inside memory (R40), no entry equal to the reset contents. -/
abbrev Memory.wf (m : Memory) : Prop :=
  m.Pairwise (fun c d => c.1 < d.1) ∧ ∀ c ∈ m, c.1 < Config.memSize ∧ c.2 ≠ resetByte c.1

/-! ## Raising an error -/

/-- `raise E(info)`: the transaction ends with the error, and no part of it takes effect (R13, R143). This is the CORE's whole
trap mechanism: nothing is saved, no mode changes, control goes to no handler, and nothing returns from it (R143, R146). -/
def raise (f : Fault) : Host.Outcome State Fault Refusal := .fault f

/-- The numeric code of an error kind (R140; log entry 28). -/
def Fault.code : Fault → Nat
  | .decodeImpossible => 0
  | .unknownOpcode _ => 1
  | .stackOverflow _ => 2
  | .stackUnderflow _ => 3
  | .memoryOutOfBounds _ => 4
  | .invalidDrawArgs _ _ _ => 5
  | .romTooLarge _ => 6

/-! ## State access -/

/-- `V[x]` (R12). -/
def State.getV (s : State) (x : RegIx) : Byte := s.v[x.val]

/-- `V[x] <- b` (R12). -/
def State.setV (s : State) (x : RegIx) (b : Byte) : State := { s with v := s.v.set x.val b }

/-- Every general register at once. -/
def State.setRegs (s : State) (v : Vector Byte 16) : State := { s with v := v }

/-- `I <- a`: any 16-bit value (R22). -/
def State.setI (s : State) (a : Word) : State := { s with i := a }

/-- `pc <- a` (R12, R20). -/
def State.setPc (s : State) (a : Word) : State := { s with pc := a }

/-- The return stack. -/
def State.setStack (s : State) (l : List Word) : State := { s with stack := l }

/-- `DT <- b` (R27). -/
def State.setDt (s : State) (b : Byte) : State := { s with dt := b }

/-- `ST <- b` (R28). -/
def State.setSt (s : State) (b : Byte) : State := { s with st := b }

/-- The framebuffer. -/
def State.setDisplay (s : State) (g : Display) : State := { s with display := g }

/-- `key[k]` (R12, R31). -/
def State.getKey (s : State) (k : KeyIx) : Bool := s.key[k.val]

/-- `key[k] <- b` (R31). -/
def State.setKey (s : State) (k : KeyIx) (b : Bool) : State := { s with key := s.key.set k.val b }

/-- The memory. -/
def State.setMem (s : State) (m : Memory) : State := { s with mem := m }

/-- The position of the random oracle, the MODEL's own (log entry 1). -/
def State.setDraws (s : State) (k : Nat) : State := { s with draws := k }

/-- `MemRead(addr, 1)` (R43). It is called only for addresses up to 0xFFF, after the check of R45 or R49 (log entry 25). -/
def State.readByte (s : State) (a : Nat) : Byte := s.mem.read a

/-- Bytes stored at consecutive ascending addresses (R47). -/
def State.storeBytes (s : State) (a : Nat) (bs : List Byte) : State := s.setMem (s.mem.writeBytes a bs)

/-- `count` bytes loaded from consecutive ascending addresses (R47). -/
def State.loadBytes (s : State) (a count : Nat) : List Byte := s.mem.readBytes a count

/-- `CheckRange(base, count)`, on unbounded naturals: the error if any of the `count` bytes from `base` on lies outside memory
(R45; log entry 13). -/
def checkRange (base count : Nat) : Option Fault :=
  if base + count - 1 > 0xFFF then some (.memoryOutOfBounds (max base 0x1000)) else none

/-! ## Stack, `pc` and the oracle -/

/-- `Push(a)`: the state with `a` appended, or the error (R24; log entry 19). -/
def State.push (s : State) (a : Word) : Except Fault State :=
  if s.stack.length ≥ Config.stackCapacity then .error (.stackOverflow s.pc) else .ok (s.setStack (s.stack ++ [a]))

/-- `Pop()`: the last value and the state without it, or the error (R25; log entry 18). -/
def State.pop (s : State) : Except Fault (Word × State) :=
  match s.stack.getLast? with
  | none => .error (.stackUnderflow s.pc)
  | some a => .ok (a, s.setStack s.stack.dropLast)

/-- `next = pc + 2` (R72; log entry 24). -/
def State.nextPc (s : State) : Word := s.pc + 2

/-- `pc <- next` (R73). -/
def State.fallthrough (s : State) : State := s.setPc s.nextPc

/-- `SkipIf(cond)` (R78). -/
def State.skipIf (s : State) (cond : Bool) : State := s.setPc (if cond then s.nextPc + 2 else s.nextPc)

/-- `draw_random()`: the oracle's next byte and the state with the draw taken (R106; log entry 1). -/
def State.drawRandom (s : State) : Byte × State := (Config.freeByte s.draws, s.setDraws (s.draws + 1))

/-! ## Fetch -/

/-- `Fetch()`: the word at `pc`, high byte first, or the error (R46, R49). -/
def State.fetch (s : State) : Except Fault Word :=
  if s.pc.toNat > 0xFFE then .error (.memoryOutOfBounds s.pc.toNat)
  else .ok (wordOfBytes (s.readByte s.pc.toNat) (s.readByte (s.pc.toNat + 1)))

/-- Fetch and selection: the instruction at `pc`, or the first error of R145 (R71, R145). -/
def State.fetchInstr (s : State) : Except Fault Instr :=
  match s.fetch with
  | .error f => .error f
  | .ok w =>
    match decodeWord w with
    | some i => .ok i
    | none => .error (.unknownOpcode w)

/-- A word put where the next fetch reads, high byte first; a `pc` no fetch can use is first moved to 0x200 (log entry 23). -/
def State.placeWord (s : State) (w : Word) : State :=
  let t := if s.pc.toNat > 0xFFE then s.setPc (BitVec.ofNat 16 Config.programStart) else s
  t.storeBytes t.pc.toNat [highByte w, lowByte w]

end Sys2Proof.Machine
end

