-- ==== Sys2Proof/Machine/Operands.lean ====
section
/-! DEFINITION. The operand forms (30_encoding.md rules R58, R60): the implicit registers, the zero-extended immediates, and the
values an instruction makes of a register before using it as a digit, a key number or an address. -/

namespace Sys2Proof.Machine

/-- The flag register VF, register 15 (R12, R18). -/
abbrev VF : RegIx := 15

/-- The implicit register of BNNN (R60, R83). -/
abbrev V0 : RegIx := 0

/-- `zext_16(nnn)` (R58). -/
def zextAddr (nnn : Addr12) : Word := nnn.setWidth 16

/-- `zext_16(b)` of a byte (R10). -/
def zextByte (b : Byte) : Word := b.setWidth 16

/-- `b AND 0x0F` as a key number (R130, R131; log entry 11). -/
def keyOf (b : Byte) : KeyIx := Fin.ofNat 16 (b &&& 0x0F).toNat

/-- `5 * (b AND 0x0F)`, the address of a font glyph (R36, R112; log entry 11). -/
def glyphAddress (b : Byte) : Word := BitVec.ofNat 16 Config.fontGlyphBytes * zextByte (b &&& 0x0F)

/-- The decimal digits of a byte: hundreds, tens, units (R113). -/
def decimalDigits (b : Byte) : List Byte := [b / 100, (b / 10) % 10, b % 10]

/-- `V[0]` to `V[x]`, in order (R114). -/
def State.regsUpTo (s : State) (x : RegIx) : List Byte := s.v.toList.take (x.val + 1)

/-- The registers after `V[k]` is loaded from `mem[a + k]` for `k` in 0 to `x` (R115). -/
def State.regsLoaded (s : State) (a : Nat) (x : RegIx) : Vector Byte 16 :=
  Vector.ofFn fun k => if k.val ≤ x.val then s.readByte (a + k.val) else s.v[k.val]

/-- The least pressed key, if any key is pressed (R133; log entry 12). -/
def State.leastPressed (s : State) : Option KeyIx := (List.finRange 16).find? fun k => s.getKey k

end Sys2Proof.Machine
end

