-- ==== Sys2Proof/Machine/Flags.lean ====
section
/-! DEFINITION. The flag values (41_register_alu.md rule R91; 43_display.md rule R122) and the order of the two writes of an
instruction that sets VF (41_register_alu.md rule R90). Every flag is 0 or 1. -/

namespace Sys2Proof.Machine

/-- A condition as a flag value (R91). -/
def flagOf (b : Bool) : Byte := if b then 1 else 0

/-- Carry of `a + b`: 1 iff the unsigned sum exceeds 255 (R91). -/
def carryFlag (a b : Byte) : Byte := flagOf (decide (a.toNat + b.toNat > 255))

/-- "No borrow" of `a - b`: 1 iff `a >= b` (R91). -/
def noBorrowFlag (a b : Byte) : Byte := flagOf (decide (a.toNat ≥ b.toNat))

/-- The bit a right shift by one drops, bit 0 (R91, R101). -/
def shiftedOutRight (a : Byte) : Byte := a &&& 1

/-- The bit a left shift by one drops, bit 7 (R91, R103). -/
def shiftedOutLeft (a : Byte) : Byte := (a >>> 7) &&& 1

/-- The primary result to `V[x]`, then the flag to VF, last (R90; log entry 8). -/
def State.setWithFlag (s : State) (x : RegIx) (result flag : Byte) : State := (s.setV x result).setV VF flag

end Sys2Proof.Machine
end

