-- ==== Sys2Proof/Machine/Alu.lean ====
section
/-! DEFINITION. The meanings of 41_register_alu.md: register loads, the ALU and RND. Each ends with `pc <- next` and raises no
error. -/

namespace Sys2Proof.Machine

/-- LD Vx, nn (R93). -/
def execLdImm (x : RegIx) (nn : Byte) (s : State) : Host.Outcome State Fault Refusal :=
  .next (s.setV x nn).fallthrough

/-- ADD Vx, nn: wraps, no flag (R94). -/
def execAddImm (x : RegIx) (nn : Byte) (s : State) : Host.Outcome State Fault Refusal :=
  .next (s.setV x (s.getV x + nn)).fallthrough

/-- LD Vx, Vy (R95). -/
def execLdReg (x y : RegIx) (s : State) : Host.Outcome State Fault Refusal :=
  .next (s.setV x (s.getV y)).fallthrough

/-- OR Vx, Vy: VF is not reset (R96; log entry 7). -/
def execOrReg (x y : RegIx) (s : State) : Host.Outcome State Fault Refusal :=
  .next (s.setV x (s.getV x ||| s.getV y)).fallthrough

/-- AND Vx, Vy: VF is not reset (R97; log entry 7). -/
def execAndReg (x y : RegIx) (s : State) : Host.Outcome State Fault Refusal :=
  .next (s.setV x (s.getV x &&& s.getV y)).fallthrough

/-- XOR Vx, Vy: VF is not reset (R98; log entry 7). -/
def execXorReg (x y : RegIx) (s : State) : Host.Outcome State Fault Refusal :=
  .next (s.setV x (s.getV x ^^^ s.getV y)).fallthrough

/-- ADD Vx, Vy: VF is the carry (R99). -/
def execAddReg (x y : RegIx) (s : State) : Host.Outcome State Fault Refusal :=
  .next (s.setWithFlag x (s.getV x + s.getV y) (carryFlag (s.getV x) (s.getV y))).fallthrough

/-- SUB Vx, Vy: `Vx - Vy`, VF is "no borrow" (R100). -/
def execSubReg (x y : RegIx) (s : State) : Host.Outcome State Fault Refusal :=
  .next (s.setWithFlag x (s.getV x - s.getV y) (noBorrowFlag (s.getV x) (s.getV y))).fallthrough

/-- SHR Vx: `V[x]` in place, `V[y]` is not read, VF is old bit 0 (R101; log entry 6). -/
def execShr (x _y : RegIx) (s : State) : Host.Outcome State Fault Refusal :=
  .next (s.setWithFlag x (s.getV x >>> 1) (shiftedOutRight (s.getV x))).fallthrough

/-- SUBN Vx, Vy: `Vy - Vx`, VF is "no borrow" (R102). -/
def execSubnReg (x y : RegIx) (s : State) : Host.Outcome State Fault Refusal :=
  .next (s.setWithFlag x (s.getV y - s.getV x) (noBorrowFlag (s.getV y) (s.getV x))).fallthrough

/-- SHL Vx: `V[x]` in place, `V[y]` is not read, VF is old bit 7 (R103; log entry 6). -/
def execShl (x _y : RegIx) (s : State) : Host.Outcome State Fault Refusal :=
  .next (s.setWithFlag x (s.getV x <<< 1) (shiftedOutLeft (s.getV x))).fallthrough

/-- RND Vx, nn: the draw is taken whatever `nn` is (R105, R106; log entry 1). -/
def execRnd (x : RegIx) (nn : Byte) (s : State) : Host.Outcome State Fault Refusal :=
  .next (s.drawRandom.2.setV x (s.drawRandom.1 &&& nn)).fallthrough

end Sys2Proof.Machine
end

