-- ==== Sys2Proof/Machine/Control.lean ====
section
/-! DEFINITION. The meanings of 40_control_flow.md: jumps, CALL, RET and the four skips that compare. -/

namespace Sys2Proof.Machine

/-- RET (R75). -/
def execRet (s : State) : Host.Outcome State Fault Refusal :=
  match s.pop with
  | .error f => raise f
  | .ok (target, t) => .next (t.setPc target)

/-- JP nnn (R76). -/
def execJp (nnn : Addr12) (s : State) : Host.Outcome State Fault Refusal :=
  .next (s.setPc (zextAddr nnn))

/-- CALL nnn: `next` is pushed (R77; log entry 18). -/
def execCall (nnn : Addr12) (s : State) : Host.Outcome State Fault Refusal :=
  match s.push s.nextPc with
  | .error f => raise f
  | .ok t => .next (t.setPc (zextAddr nnn))

/-- SE Vx, nn (R79). -/
def execSeImm (x : RegIx) (nn : Byte) (s : State) : Host.Outcome State Fault Refusal :=
  .next (s.skipIf (s.getV x == nn))

/-- SNE Vx, nn (R80). -/
def execSneImm (x : RegIx) (nn : Byte) (s : State) : Host.Outcome State Fault Refusal :=
  .next (s.skipIf (s.getV x != nn))

/-- SE Vx, Vy (R81). -/
def execSeReg (x y : RegIx) (s : State) : Host.Outcome State Fault Refusal :=
  .next (s.skipIf (s.getV x == s.getV y))

/-- SNE Vx, Vy (R82). -/
def execSneReg (x y : RegIx) (s : State) : Host.Outcome State Fault Refusal :=
  .next (s.skipIf (s.getV x != s.getV y))

/-- JP V0, nnn: the sum is not reduced (R83; log entry 17). -/
def execJpV0 (nnn : Addr12) (s : State) : Host.Outcome State Fault Refusal :=
  .next (s.setPc (zextAddr nnn + zextByte (s.getV V0)))

end Sys2Proof.Machine
end

