-- ==== Sys2Proof/Machine/Display.lean ====
section
/-! DEFINITION. The framebuffer controller and the meanings of 43_display.md: clear, and the XOR draw with collision. -/

namespace Sys2Proof.Machine

/-- `display[y][x]` (R29). -/
def Display.pixel (g : Display) (x : Fin 64) (y : Fin 32) : Bool := (g[y.val])[x.val]

/-- `display[y][x] <- not display[y][x]` (R122). -/
def Display.toggle (g : Display) (x : Fin 64) (y : Fin 32) : Display :=
  g.set y.val ((g[y.val]).set x.val (!g.pixel x y))

/-- Every pixel false (R121). -/
def Display.clear : Display := Vector.replicate 32 (Vector.replicate 64 false)

/-- The display and `hit` while a sprite is drawn (R122). -/
abbrev DrawState := Display × Bool

/-- One 1 bit of a sprite: `hit` if its pixel is lit, and the pixel toggled (R122). -/
def drawPixel (x : Fin 64) (y : Fin 32) (d : DrawState) : DrawState :=
  (d.1.toggle x y, d.2 || d.1.pixel x y)

/-- One sprite row: bit 7 is the pixel at column `vx`, columns wrap modulo 64 (R122, R123; log entry 16). -/
def drawRow (vx : Nat) (y : Fin 32) (b : Byte) (d : DrawState) : DrawState :=
  (List.range Config.spriteWidth).foldl
    (fun d c => if b.getLsbD (7 - c) then drawPixel (Fin.ofNat 64 (vx + c)) y d else d) d

/-- The sprite rows from row `r` on, rows wrap modulo 32 (R122). -/
def drawRows (vx vy : Nat) : Nat → List Byte → DrawState → DrawState
  | _, [], d => d
  | r, b :: rest, d => drawRows vx vy (r + 1) rest (drawRow vx (Fin.ofNat 32 (vy + r)) b d)

/-- Whether DXYN accepts its origin and row count (R122). -/
def drawArgsValid (vx vy : Byte) (n : Nibble) : Bool :=
  decide (vx.toNat < Config.displayWidth) && decide (vy.toNat < Config.displayHeight) && n != 0

/-- The sprite of `n` rows at `I` drawn at (`vx`, `vy`) (R122). -/
def State.drawSprite (s : State) (vx vy : Byte) (n : Nibble) : DrawState :=
  drawRows vx.toNat vy.toNat 0 (s.loadBytes s.i.toNat n.toNat) (s.display, false)

/-- CLS (R121). -/
def execCls (s : State) : Host.Outcome State Fault Refusal :=
  .next (s.setDisplay Display.clear).fallthrough

/-- DRW Vx, Vy, n: the arguments are checked before the range, VF is written last (R122; log entry 15). -/
def execDrw (x y : RegIx) (n : Nibble) (s : State) : Host.Outcome State Fault Refusal :=
  if drawArgsValid (s.getV x) (s.getV y) n then
    match checkRange s.i.toNat n.toNat with
    | some f => raise f
    | none =>
      let d := s.drawSprite (s.getV x) (s.getV y) n
      .next ((s.setDisplay d.1).setV VF (flagOf d.2)).fallthrough
  else raise (.invalidDrawArgs (s.getV x) (s.getV y) n)

end Sys2Proof.Machine
end

