-- ==== Sys2Proof/Machine/IndexMemory.lean ====
section
/-! DEFINITION. The meanings of 42_index_memory.md: writing `I`, and the transfers between registers and memory. No transfer
changes `I` (log entry 10). -/

namespace Sys2Proof.Machine

/-- LD I, nnn (R110). -/
def execLdI (nnn : Addr12) (s : State) : Host.Outcome State Fault Refusal :=
  .next (s.setI (zextAddr nnn)).fallthrough

/-- ADD I, Vx: modulo 2^16, VF is not written (R111; log entry 9). -/
def execAddIVx (x : RegIx) (s : State) : Host.Outcome State Fault Refusal :=
  .next (s.setI (s.i + zextByte (s.getV x))).fallthrough

/-- LD F, Vx: the glyph of the low nibble (R112; log entry 11). -/
def execLdFVx (x : RegIx) (s : State) : Host.Outcome State Fault Refusal :=
  .next (s.setI (glyphAddress (s.getV x))).fallthrough

/-- LD B, Vx: the decimal digits at `I`, `I + 1`, `I + 2` (R113). -/
def execLdBVx (x : RegIx) (s : State) : Host.Outcome State Fault Refusal :=
  match checkRange s.i.toNat 3 with
  | some f => raise f
  | none => .next (s.storeBytes s.i.toNat (decimalDigits (s.getV x))).fallthrough

/-- LD [I], Vx: `V[0]` to `V[x]` stored at `I` on (R114). -/
def execLdMemVx (x : RegIx) (s : State) : Host.Outcome State Fault Refusal :=
  match checkRange s.i.toNat (x.val + 1) with
  | some f => raise f
  | none => .next (s.storeBytes s.i.toNat (s.regsUpTo x)).fallthrough

/-- LD Vx, [I]: `V[0]` to `V[x]` loaded from `I` on (R115). -/
def execLdVxMem (x : RegIx) (s : State) : Host.Outcome State Fault Refusal :=
  match checkRange s.i.toNat (x.val + 1) with
  | some f => raise f
  | none => .next (s.setRegs (s.regsLoaded s.i.toNat x)).fallthrough

end Sys2Proof.Machine
end

