-- ==== Sys2Proof/Machine/KeysTimers.lean ====
section
/-! DEFINITION. The meanings of 44_keys_timers.md: the key skips, the key wait and the timer registers. -/

namespace Sys2Proof.Machine

/-- SKP Vx (R130; log entry 11). -/
def execSkp (x : RegIx) (s : State) : Host.Outcome State Fault Refusal :=
  .next (s.skipIf (s.getKey (keyOf (s.getV x))))

/-- SKNP Vx (R131; log entry 11). -/
def execSknp (x : RegIx) (s : State) : Host.Outcome State Fault Refusal :=
  .next (s.skipIf (!s.getKey (keyOf (s.getV x))))

/-- LD Vx, DT (R132). -/
def execLdVxDt (x : RegIx) (s : State) : Host.Outcome State Fault Refusal :=
  .next (s.setV x s.dt).fallthrough

/-- LD Vx, K: with no key pressed the step changes nothing at all; else the least pressed key (R133; log entry 12). -/
def execLdVxK (x : RegIx) (s : State) : Host.Outcome State Fault Refusal :=
  match s.leastPressed with
  | none => .next s
  | some k => .next (s.setV x (BitVec.ofNat 8 k.val)).fallthrough

/-- LD DT, Vx (R134). -/
def execLdDtVx (x : RegIx) (s : State) : Host.Outcome State Fault Refusal :=
  .next (s.setDt (s.getV x)).fallthrough

/-- LD ST, Vx (R135). -/
def execLdStVx (x : RegIx) (s : State) : Host.Outcome State Fault Refusal :=
  .next (s.setSt (s.getV x)).fallthrough

end Sys2Proof.Machine
end

