-- ==== Sys2Proof/Machine/Step.lean ====
section
/-! DEFINITION. `step`, the CORE's only instruction-executing transaction (40_control_flow.md rules R70, R71), and the placing of
the word the next step fetches. -/

namespace Sys2Proof.Machine

/-- `Step()`: fetch, select, execute; an error at any point ends it (R71). -/
def step (s : State) : Host.Outcome State Fault Refusal :=
  match s.fetchInstr with
  | .error f => raise f
  | .ok i => exec i s

/-- The state with the word of `nbits` bits `w` stored where the next step fetches (log entry 23). -/
def State.withFetchWord (s : State) (nbits w : Nat) : State := s.placeWord (tableWord nbits w)

end Sys2Proof.Machine
end

