-- ==== Sys2Proof/Machine/Transactions.lean ====
section
/-! DEFINITION. The host interface (60_exceptions.md rule R150): every transaction the host may issue, and a session of them in the
host's own order (rules R156, R157; log entry 22). `step` is Machine/Step.lean's. -/

namespace Sys2Proof.Machine

/-- `load(rom)`, the CORE's only reset: the reset state with the ROM's bytes from 0x200 on, or the error (R165, R167). The random
oracle is no part of the state a `load` rebuilds (R16), so its position `draws` is kept: no draw is given twice (R106; log entry 1). -/
def load (draws : Nat) (rom : List Byte) : Host.Outcome State Fault Refusal :=
  if rom.length > Config.maxRom then raise (.romTooLarge rom.length)
  else .next ((State.reset.setDraws draws).storeBytes Config.programStart rom)

/-- A timer after one `tick`: one less, and never below zero (R152). -/
def tickTimer (b : Byte) : Byte := if b = 0 then 0 else b - 1

/-- `tick()`: both timers, independently (R152). -/
def tick (s : State) : State := (s.setDt (tickTimer s.dt)).setSt (tickTimer s.st)

/-- `sound_active()` (R153). -/
def soundActive (s : State) : Bool := decide (s.st.toNat > 0)

/-- `read_framebuffer()` (R155). -/
def readFramebuffer (s : State) : Display := s.display

/-- `snapshot()`: the whole state (R159; log entry 27). -/
def snapshot (s : State) : State := s

/-- The transactions of R150, with their inputs. -/
inductive Transaction where
  | load (rom : List Byte)
  | step
  | tick
  | setKey (k : KeyIx) (b : Bool)
  | readFramebuffer
  | soundActive
  | snapshot
  deriving DecidableEq, Repr

/-- What a transaction gives the host (R150). -/
inductive Reply where
  /-- `Ok`, or no output. -/
  | ok
  /-- `Err(kind, info)`. -/
  | err (f : Fault)
  /-- The 64 x 32 grid. -/
  | framebuffer (g : Display)
  /-- Whether audio should play. -/
  | sound (b : Bool)
  /-- The whole state. -/
  | state (s : State)
  /-- The model gives the step no meaning; never given (no instruction is refused). -/
  | noMeaning (r : Refusal)
  /-- There is no core to act on: the host has broken R168 (log entry 22). -/
  | noCore
  deriving DecidableEq, Repr

/-- What the host has before it: no core, and only the position of the random oracle, or a core (R167, R168; log entries 1, 22). -/
inductive Bench where
  | empty (draws : Nat)
  | running (s : State)
  deriving DecidableEq, Repr

/-- The position of the random oracle, with a core or without one. -/
def Bench.draws : Bench → Nat
  | .empty draws => draws
  | .running s => s.draws

/-- Before the first `load`: no core, and nothing drawn (R168). -/
def Bench.powerOn : Bench := .empty 0

/-- The core after `load`, and the reply; a ROM that is too large leaves no core (R165, R167). -/
def transactLoad (draws : Nat) (rom : List Byte) : Bench × Reply :=
  match load draws rom with
  | .next s => (.running s, .ok)
  | .fault f => (.empty draws, .err f)
  | .refused r => (.empty draws, .noMeaning r)

/-- The core after `step`, and the reply; an error leaves the state as it was (R143). -/
def transactStep (s : State) : State × Reply :=
  match step s with
  | .next t => (t, .ok)
  | .fault f => (s, .err f)
  | .refused r => (s, .noMeaning r)

/-- A transaction on a core (R150). -/
def transactOn (s : State) : Transaction → Bench × Reply
  | .load rom => transactLoad s.draws rom
  | .step => (.running (transactStep s).1, (transactStep s).2)
  | .tick => (.running (tick s), .ok)
  | .setKey k b => (.running (s.setKey k b), .ok)
  | .readFramebuffer => (.running s, .framebuffer (readFramebuffer s))
  | .soundActive => (.running s, .sound (soundActive s))
  | .snapshot => (.running s, .state (snapshot s))

/-- A transaction where there is no core: only `load` makes one (R168). -/
def transactEmpty (draws : Nat) : Transaction → Bench × Reply
  | .load rom => transactLoad draws rom
  | .step => (.empty draws, .noCore)
  | .tick => (.empty draws, .noCore)
  | .setKey _ _ => (.empty draws, .noCore)
  | .readFramebuffer => (.empty draws, .noCore)
  | .soundActive => (.empty draws, .noCore)
  | .snapshot => (.empty draws, .noCore)

/-- One transaction (R150). -/
def transact : Bench → Transaction → Bench × Reply
  | .empty draws, t => transactEmpty draws t
  | .running s, t => transactOn s t

/-- A session: the host's transactions, each complete before the next, in the host's order (R157). -/
def session (bench : Bench) : List Transaction → Bench × List Reply
  | [] => (bench, [])
  | t :: rest =>
    let (next, reply) := transact bench t
    let (last, replies) := session next rest
    (last, reply :: replies)

end Sys2Proof.Machine
end

