-- ==== Sys2Proof/Safety.lean ====
section
/-! DEFINITION. The words claims are made in: the invariant of the CORE, what a safe run is, and what an instruction leaves
unchanged. -/

namespace Sys2Proof.Machine

/-- The invariant: memory in its canonical form, at most `STACK_CAPACITY` return addresses (R23), each at most 0x1000, the largest a
CALL pushes (R75), and `pc` at most 0x10FE, the largest value an instruction writes (R21). -/
abbrev State.Inv (s : State) : Prop :=
  s.mem.wf ∧ s.stack.length ≤ Config.stackCapacity ∧ (∀ a ∈ s.stack, a.toNat ≤ 0x1000) ∧ s.pc.toNat ≤ 0x10FE

/-- A run of `k` steps from `s` that ends `Ok` every time: no error is reported (R146). -/
def State.SafeRun (s : State) (k : Nat) : Prop := ∃ t, Sys2Proof.core.run k s = .next t

/-- Every general register but those listed is as before. -/
def SameRegsExcept (rs : List RegIx) (s t : State) : Prop := ∀ r, r ∉ rs → t.getV r = s.getV r

/-- Every byte of memory outside the `count` bytes from `a` on reads as before. -/
def SameMemoryOutside (a count : Nat) (s t : State) : Prop :=
  ∀ b, (b < a ∨ a + count ≤ b) → t.readByte b = s.readByte b

/-- Every byte of memory reads as before. -/
def SameMemory (s t : State) : Prop := ∀ b, t.readByte b = s.readByte b

/-- Every pixel is as before. -/
def SameDisplay (s t : State) : Prop := ∀ x y, t.display.pixel x y = s.display.pixel x y

/-- Every key is as before. -/
def SameKeys (s t : State) : Prop := ∀ k, t.getKey k = s.getKey k

/-- Both timers are as before. -/
def SameTimers (s t : State) : Prop := t.dt = s.dt ∧ t.st = s.st

/-- Nothing but `pc`, the general registers listed and the model's own `draws` may differ. -/
def OnlyRegs (rs : List RegIx) (s t : State) : Prop :=
  SameRegsExcept rs s t ∧ t.i = s.i ∧ t.stack = s.stack ∧ SameTimers s t ∧ SameDisplay s t ∧ SameKeys s t ∧ SameMemory s t

/-- Nothing but `pc`, `I` and the model's own `draws` may differ. -/
def OnlyIndex (s t : State) : Prop :=
  SameRegsExcept [] s t ∧ t.stack = s.stack ∧ SameTimers s t ∧ SameDisplay s t ∧ SameKeys s t ∧ SameMemory s t

/-- Nothing but `pc`, the stack and the model's own `draws` may differ. -/
def OnlyStack (s t : State) : Prop :=
  SameRegsExcept [] s t ∧ t.i = s.i ∧ SameTimers s t ∧ SameDisplay s t ∧ SameKeys s t ∧ SameMemory s t

/-- Nothing but `pc`, the timers and the model's own `draws` may differ. -/
def OnlyTimers (s t : State) : Prop :=
  SameRegsExcept [] s t ∧ t.i = s.i ∧ t.stack = s.stack ∧ SameDisplay s t ∧ SameKeys s t ∧ SameMemory s t

/-- Nothing but `pc`, the registers listed, the pixels and the model's own `draws` may differ. -/
def OnlyRegsAndDisplay (rs : List RegIx) (s t : State) : Prop :=
  SameRegsExcept rs s t ∧ t.i = s.i ∧ t.stack = s.stack ∧ SameTimers s t ∧ SameKeys s t ∧ SameMemory s t

/-- Nothing but `pc`, the `count` bytes of memory from `a` on and the model's own `draws` may differ. -/
def OnlyBytes (a count : Nat) (s t : State) : Prop :=
  SameRegsExcept [] s t ∧ t.i = s.i ∧ t.stack = s.stack ∧ SameTimers s t ∧ SameDisplay s t ∧ SameKeys s t ∧
    SameMemoryOutside a count s t

/-! ## What the rules say of each instruction -/

/-- The error an instruction raises in a state, as its own rule says (R142). -/
def instrError (s : State) : Instr → Fault → Prop
  | .ret _, f => s.stack = [] ∧ f = .stackUnderflow s.pc
  | .call _, f => s.stack.length ≥ Config.stackCapacity ∧ f = .stackOverflow s.pc
  | .drw x y n, f =>
    (((s.getV x).toNat ≥ 64 ∨ (s.getV y).toNat ≥ 32 ∨ n.toNat = 0) ∧ f = .invalidDrawArgs (s.getV x) (s.getV y) n) ∨
    ((s.getV x).toNat < 64 ∧ (s.getV y).toNat < 32 ∧ n.toNat ≠ 0 ∧ s.i.toNat + n.toNat > 0x1000 ∧
      f = .memoryOutOfBounds (max s.i.toNat 0x1000))
  | .ldBVx _, f => s.i.toNat + 2 > 0xFFF ∧ f = .memoryOutOfBounds (max s.i.toNat 0x1000)
  | .ldMemVx x, f => s.i.toNat + x.val > 0xFFF ∧ f = .memoryOutOfBounds (max s.i.toNat 0x1000)
  | .ldVxMem x, f => s.i.toNat + x.val > 0xFFF ∧ f = .memoryOutOfBounds (max s.i.toNat 0x1000)
  | _, _ => False

/-- The new `pc` of an instruction that ends `Ok` (R73). -/
def pcAfter (s : State) : Instr → Word
  | .jp nnn => nnn.setWidth 16
  | .call nnn => nnn.setWidth 16
  | .ret _ => s.stack.getLastD 0
  | .jpV0 nnn => nnn.setWidth 16 + (s.getV 0).setWidth 16
  | .seImm x nn => if s.getV x = nn then s.pc + 4 else s.pc + 2
  | .sneImm x nn => if s.getV x = nn then s.pc + 2 else s.pc + 4
  | .seReg x y _ => if s.getV x = s.getV y then s.pc + 4 else s.pc + 2
  | .sneReg x y _ => if s.getV x = s.getV y then s.pc + 2 else s.pc + 4
  | .skp x => if ∃ k : KeyIx, k.val = (s.getV x).toNat % 16 ∧ s.getKey k = true then s.pc + 4 else s.pc + 2
  | .sknp x => if ∃ k : KeyIx, k.val = (s.getV x).toNat % 16 ∧ s.getKey k = true then s.pc + 2 else s.pc + 4
  | .ldVxK _ => if ∀ k, s.getKey k = false then s.pc else s.pc + 2
  | _ => s.pc + 2

/-- The registers an instruction may write (R19, R104). -/
def writesReg : Instr → RegIx → Bool
  | .ldImm x _, r | .addImm x _, r | .ldReg x _, r | .orReg x _, r | .andReg x _, r | .xorReg x _, r => r == x
  | .rnd x _, r | .ldVxDt x, r | .ldVxK x, r => r == x
  | .addReg x _, r | .subReg x _, r | .shr x _, r | .subnReg x _, r | .shl x _, r => r == x || r == VF
  | .drw _ _ _, r => r == VF
  | .ldVxMem x, r => decide (r ≤ x)
  | _, _ => false

/-- Whether an instruction executed in a state stores to an address (R35, R113, R114). -/
def storesTo (s : State) : Instr → Nat → Prop
  | .ldBVx _, a => s.i.toNat ≤ a ∧ a < s.i.toNat + 3
  | .ldMemVx x, a => s.i.toNat ≤ a ∧ a < s.i.toNat + (x.val + 1)
  | _, _ => False

/-- Whether the sprite of `n` rows at `I`, drawn at origin (`vx`, `vy`), has a 1 bit on the pixel at column `px`, row `py`: bit 7 of a
row is its leftmost pixel, columns wrap at 64 and rows at 32 (R122, R123). -/
def spriteCovers (s : State) (vx vy n : Nat) (px : Fin 64) (py : Fin 32) : Prop :=
  ∃ r c, r < n ∧ c < 8 ∧ px.val = (vx + c) % 64 ∧ py.val = (vy + r) % 32 ∧
    (s.readByte (s.i.toNat + r)).getLsbD (7 - c) = true

end Sys2Proof.Machine
end

