-- ==== Sys2Proof/Certificates/Slice0/Obligations.lean ====
section
/-! DEFINITION. The statements about the CORE, one `def Obligations.<Name> : Prop` each. A docstring names the rule a statement
formalises, and says where a clause is the spec's own decision or the model's choice. -/

open Sys2Proof Sys2Proof.Machine

/-! ## Encoding and decoding (30_encoding.md) -/

/-- R56: the word of two bytes is big-endian, and its six fields are the bits the rule names. -/
def Obligations.FieldsSplitTheWord : Prop :=
  (∀ hi lo : Byte, (wordOfBytes hi lo).toNat = hi.toNat * 256 + lo.toNat) ∧
  ∀ w : Word,
    (fieldsOf w).f.toNat = w.toNat / 4096 ∧ (fieldsOf w).x.toNat = w.toNat / 256 % 16 ∧
    (fieldsOf w).y.toNat = w.toNat / 16 % 16 ∧ (fieldsOf w).n.toNat = w.toNat % 16 ∧
    (fieldsOf w).nn.toNat = w.toNat % 256 ∧ (fieldsOf w).nnn.toNat = w.toNat % 4096

/-- Words written out from R62 decode to the instruction they stand for, one or more of every family. -/
def Obligations.WrittenWordsDecode : Prop :=
  decodeWord 0x00E0 = some (.cls 0) ∧ decodeWord 0x05EE = some (.ret 5) ∧ decodeWord 0x1ABC = some (.jp 0xABC) ∧
  decodeWord 0x2210 = some (.call 0x210) ∧ decodeWord 0x3342 = some (.seImm 3 0x42) ∧
  decodeWord 0x5127 = some (.seReg 1 2 7) ∧ decodeWord 0x81F4 = some (.addReg 1 15) ∧
  decodeWord 0x812E = some (.shl 1 2) ∧ decodeWord 0xBFFF = some (.jpV0 0xFFF) ∧
  decodeWord 0xD123 = some (.drw 1 2 3) ∧ decodeWord 0xE2A1 = some (.sknp 2) ∧
  decodeWord 0xF533 = some (.ldBVx 5) ∧ decodeWord 0x8128 = none

/-- Decode after encode: every instruction's two bytes decode to it, whatever bytes follow. -/
def Obligations.DecodeOfEncodeIsTheInstruction : Prop :=
  ∀ (i : Instr) (rest : List Byte), i.wellFormed = true → decode (encodeBytes i ++ rest) = .ok (i, rest)

/-- Encode after decode: bytes that decode to an instruction are its encoding, so that each word has one meaning and no
instruction is left out of the decoder's range. -/
def Obligations.EncodeOfDecodeIsTheBytes : Prop :=
  ∀ (bytes : List Byte) (i : Instr) (rest : List Byte),
    decode bytes = .ok (i, rest) → i.wellFormed = true ∧ bytes = encodeBytes i ++ rest

/-- The selection of R61 and the opcode map of R62 agree on every word, and no two rows of the map overlap. -/
def Obligations.SelectionAgreesWithOpcodeTable : Prop :=
  (opcodeTable.Pairwise fun r q => ∀ w, ¬(r.covers w = true ∧ q.covers w = true)) ∧
  ∀ w, (decodeWord w).map Instr.mnemonic = (opcodeTable.find? fun r => r.covers w).map OpcodeRow.mnemonic

/-- Exactly the words R66 lists select no instruction (D5 for the sub-selector gaps, D6 for the ignored nibbles). -/
def Obligations.UnknownWordsAreThoseListed : Prop :=
  ∀ w, decodeWord w = none ↔
    ((fieldsOf w).f = 0x0 ∧ (fieldsOf w).nn ≠ 0xE0 ∧ (fieldsOf w).nn ≠ 0xEE) ∨
    ((fieldsOf w).f = 0x8 ∧ (fieldsOf w).n ∈ [0x8, 0x9, 0xA, 0xB, 0xC, 0xD, 0xF]) ∨
    ((fieldsOf w).f = 0xE ∧ (fieldsOf w).nn ≠ 0x9E ∧ (fieldsOf w).nn ≠ 0xA1) ∨
    ((fieldsOf w).f = 0xF ∧ (fieldsOf w).nn ∉ [0x07, 0x0A, 0x15, 0x18, 0x1E, 0x29, 0x33, 0x55, 0x65])

/-- The nibble a family does not select on has no effect (D6, log entry 5): two words that differ only there decode to
instructions of the same meaning; the `y` of SHR and SHL has none either (D9, log entry 6). -/
def Obligations.IgnoredNibblesHaveNoEffect : Prop :=
  (∀ w w' i, (w ^^^ w') &&& 0xF0FF = 0 → (fieldsOf w).f = 0x0 → decodeWord w = some i →
    ∃ i', decodeWord w' = some i' ∧ ∀ s, exec i' s = exec i s) ∧
  (∀ w w', (w ^^^ w') &&& 0xFFF0 = 0 → ((fieldsOf w).f = 0x5 ∨ (fieldsOf w).f = 0x9) →
    ∃ i i', decodeWord w = some i ∧ decodeWord w' = some i' ∧ ∀ s, exec i' s = exec i s) ∧
  ∀ w w', (w ^^^ w') &&& 0xFF0F = 0 → (fieldsOf w).f = 0x8 → ((fieldsOf w).n = 0x6 ∨ (fieldsOf w).n = 0xE) →
    ∃ i i', decodeWord w = some i ∧ decodeWord w' = some i' ∧ ∀ s, exec i' s = exec i s

/-! ## The step (40_control_flow.md, 20_memory.md, 60_exceptions.md) -/

/-- R71: when the two bytes at `pc` decode to an instruction, a step is exactly that instruction's execution; the step adds
nothing around it. -/
def Obligations.StepRunsTheDecodedInstruction : Prop :=
  ∀ (s : State) (i : Instr), s.pc.toNat ≤ 0xFFE → i.wellFormed = true →
    decode [s.readByte s.pc.toNat, s.readByte (s.pc.toNat + 1)] = .ok (i, []) → step s = exec i s

/-- R46, R49: a `pc` above 0xFFE raises `MemoryOutOfBounds(pc)` (the info D27, log entry 28); any other fetches the bytes at `pc` and
`pc + 1`, high byte first, an odd one like an even one (D21, log entry 17). -/
def Obligations.FetchIsBigEndianAndBounded : Prop :=
  ∀ s : State,
    (s.pc.toNat > 0xFFE → s.fetch = .error (.memoryOutOfBounds s.pc.toNat) ∧
      step s = .fault (.memoryOutOfBounds s.pc.toNat)) ∧
    (s.pc.toNat ≤ 0xFFE → ∃ w : Word, s.fetch = .ok w ∧
      w.toNat = (s.readByte s.pc.toNat).toNat * 256 + (s.readByte (s.pc.toNat + 1)).toNat)

/-- R140, R141, R142, R145: a step raises exactly these errors, with this info and in this order: the fetch bound, then the unknown
word, then the instruction's own (D4, D5, D18, D27, D36). -/
def Obligations.StepErrorsAreExactlyThese : Prop :=
  ∀ (s : State) (f : Fault), step s = .fault f ↔
    (s.pc.toNat > 0xFFE ∧ f = .memoryOutOfBounds s.pc.toNat) ∨
    (∃ w, s.fetch = .ok w ∧ decodeWord w = none ∧ f = .unknownOpcode w) ∨
    (∃ w i, s.fetch = .ok w ∧ decodeWord w = some i ∧ instrError s i f)

/-- R57, R67, R147: every step ends `Ok` or with an error of the spec: the model refuses none, `DecodeImpossible` and `RomTooLarge`
are never a step's. -/
def Obligations.StepNeverRefusesNorRaisesTheImpossible : Prop :=
  ∀ s : State, (∀ r, step s ≠ .refused r) ∧ step s ≠ .fault .decodeImpossible ∧ ∀ len, step s ≠ .fault (.romTooLarge len)

/-- R73: the `pc` policy of every instruction (the key a skip tests is that of R130 and R131). -/
def Obligations.PcPolicyOfEveryInstruction : Prop :=
  ∀ (i : Instr) (s t : State), exec i s = .next t → t.pc = pcAfter s i

/-! ## Memory as data -/

/-- R44: a byte written reads back, no other byte changes, and no other state. -/
def Obligations.MemWriteChangesOneByte : Prop :=
  ∀ (s : State) (a : Nat) (b : Byte), a ≤ 0xFFF →
    (s.setMem (s.mem.write a b)).readByte a = b ∧
    (∀ c, c ≠ a → (s.setMem (s.mem.write a b)).readByte c = s.readByte c) ∧
    (s.setMem (s.mem.write a b)) = { s with mem := s.mem.write a b }

/-- Two memories in canonical form that read alike at every address are the same data, and a write keeps the form: the memory of
the model is a function of the bytes alone (the model's representation, log entry 26). -/
def Obligations.CanonicalMemoryIsDeterminedByItsBytes : Prop :=
  (∀ m m' : Memory, m.wf → m'.wf → (∀ a, m.read a = m'.read a) → m = m') ∧
  ∀ (m : Memory) (a : Nat) (b : Byte), m.wf → a ≤ 0xFFF → (m.write a b).wf

/-- R45 (D17, D27): an access of 1 to 16 bytes passes the check exactly if every byte of it is inside memory; else the error
records the lowest address of the access outside memory. -/
def Obligations.RangeCheckIsAllOrNothing : Prop :=
  ∀ base count : Nat, 1 ≤ count →
    (checkRange base count = none ↔ ∀ k, k < count → base + k ≤ 0xFFF) ∧
    ∀ f, checkRange base count = some f →
      ∃ a, f = .memoryOutOfBounds a ∧ 0xFFF < a ∧ base ≤ a ∧ a < base + count ∧
        ∀ b, base ≤ b → b < base + count → 0xFFF < b → a ≤ b

/-! ## Control transfer (40_control_flow.md) -/

/-- R76: JP jumps to its 12-bit address and changes nothing else. -/
def Obligations.JumpGoesToItsAddress : Prop :=
  (∀ w, (fieldsOf w).f = 0x1 → decodeWord w = some (.jp (fieldsOf w).nnn)) ∧
  ∀ (nnn : Addr12) (s : State), ∃ t, exec (.jp nnn) s = .next t ∧ t.pc.toNat = nnn.toNat ∧ OnlyRegs [] s t

/-- R83 (D23, log entry 17): JP V0 jumps to the unreduced sum and changes nothing else. -/
def Obligations.JumpWithOffsetAddsV0 : Prop :=
  ∀ (nnn : Addr12) (s : State), ∃ t, exec (.jpV0 nnn) s = .next t ∧
    t.pc.toNat = nnn.toNat + (s.getV 0).toNat ∧ OnlyRegs [] s t

/-- R77 (D7, log entry 18): CALL with room on the stack pushes the address after it and jumps; with a full stack it raises
`StackOverflow(pc)`. -/
def Obligations.CallPushesTheNextAddress : Prop :=
  ∀ (nnn : Addr12) (s : State),
    (s.stack.length < Config.stackCapacity → ∃ t, exec (.call nnn) s = .next t ∧
      t.pc.toNat = nnn.toNat ∧ t.stack = s.stack ++ [s.pc + 2] ∧ OnlyStack s t) ∧
    (s.stack.length ≥ Config.stackCapacity → exec (.call nnn) s = .fault (.stackOverflow s.pc))

/-- R75 (D7, D8, log entry 18): RET pops the last value into `pc`; with an empty stack it raises `StackUnderflow(pc)`. -/
def Obligations.ReturnPopsIntoPc : Prop :=
  ∀ (skip : Nibble) (s : State),
    (∀ rest a, s.stack = rest ++ [a] → ∃ t, exec (.ret skip) s = .next t ∧
      t.pc = a ∧ t.stack = rest ∧ OnlyStack s t) ∧
    (s.stack = [] → exec (.ret skip) s = .fault (.stackUnderflow s.pc))

/-- R85: a CALL, then any execution that leaves the stack as CALL left it, then RET: `pc` is the address after the CALL and the
stack is as before it. -/
def Obligations.CallThenReturnComesBack : Prop :=
  ∀ (nnn : Addr12) (skip : Nibble) (s t u : State), exec (.call nnn) s = .next t → u.stack = t.stack →
    ∃ r, exec (.ret skip) u = .next r ∧ r.pc = s.pc + 2 ∧ r.stack = s.stack ∧ OnlyStack u r

/-- R79, R80: the immediate skips go to `pc + 4` if the comparison holds, else to `pc + 2`, and change nothing else. -/
def Obligations.ImmediateSkipsCompare : Prop :=
  (∀ w, (fieldsOf w).f = 0x3 → decodeWord w = some (.seImm (fieldsOf w).vx (fieldsOf w).nn)) ∧
  (∀ w, (fieldsOf w).f = 0x4 → decodeWord w = some (.sneImm (fieldsOf w).vx (fieldsOf w).nn)) ∧
  ∀ (x : RegIx) (nn : Byte) (s : State),
    (∃ t, exec (.seImm x nn) s = .next t ∧ OnlyRegs [] s t ∧
      t.pc = if (s.getV x).toNat = nn.toNat then s.pc + 4 else s.pc + 2) ∧
    ∃ t, exec (.sneImm x nn) s = .next t ∧ OnlyRegs [] s t ∧
      t.pc = if (s.getV x).toNat = nn.toNat then s.pc + 2 else s.pc + 4

/-- R81, R82 (D6 for the ignored nibble, log entry 5): the register skips, with the ignored nibble at any value. -/
def Obligations.RegisterSkipsCompare : Prop :=
  ∀ (x y : RegIx) (skip : Nibble) (s : State),
    (∃ t, exec (.seReg x y skip) s = .next t ∧ OnlyRegs [] s t ∧
      t.pc = if (s.getV x).toNat = (s.getV y).toNat then s.pc + 4 else s.pc + 2) ∧
    ∃ t, exec (.sneReg x y skip) s = .next t ∧ OnlyRegs [] s t ∧
      t.pc = if (s.getV x).toNat = (s.getV y).toNat then s.pc + 2 else s.pc + 4

/-- R88: at a jump to its own address every step ends `Ok` with the state as it was, for ever. -/
def Obligations.SelfJumpRunsForEver : Prop :=
  ∀ (s : State) (nnn : Addr12), s.fetchInstr = .ok (.jp nnn) → s.pc.toNat = nnn.toNat →
    ∀ k, s.SafeRun k ∧ Sys2Proof.core.run k s = .next s

/-! ## Registers and the ALU (41_register_alu.md) -/

/-- R91: addition and subtraction modulo 256 on unsigned bytes, and the flag values, exactly 0 or 1. -/
def Obligations.FlagValuesFollowTheArithmetic : Prop :=
  ∀ a b : Byte,
    (a + b).toNat = (a.toNat + b.toNat) % 256 ∧ (a - b).toNat = (a.toNat + 256 - b.toNat) % 256 ∧
    (carryFlag a b).toNat = (if a.toNat + b.toNat > 255 then 1 else 0) ∧
    (noBorrowFlag a b).toNat = (if a.toNat ≥ b.toNat then 1 else 0) ∧
    (shiftedOutRight a).toNat = a.toNat % 2 ∧ (shiftedOutLeft a).toNat = a.toNat / 128

/-- R93, R95: LD Vx, nn and LD Vx, Vy, the destination VF included as an ordinary register. -/
def Obligations.LoadsSetTheRegister : Prop :=
  (∀ w, (fieldsOf w).f = 0x6 → decodeWord w = some (.ldImm (fieldsOf w).vx (fieldsOf w).nn)) ∧
  (∀ w, (fieldsOf w).f = 0x8 → (fieldsOf w).n = 0x0 → decodeWord w = some (.ldReg (fieldsOf w).vx (fieldsOf w).vy)) ∧
  ∀ (x y : RegIx) (nn : Byte) (s : State),
    (∃ t, exec (.ldImm x nn) s = .next t ∧ t.getV x = nn ∧ t.pc = s.pc + 2 ∧ OnlyRegs [x] s t) ∧
    ∃ t, exec (.ldReg x y) s = .next t ∧ t.getV x = s.getV y ∧ t.pc = s.pc + 2 ∧ OnlyRegs [x] s t

/-- R94: ADD Vx, nn wraps at 256 and writes no flag: VF changes only where it is the destination. -/
def Obligations.AddImmediateWrapsWithoutFlag : Prop :=
  (∀ w, (fieldsOf w).f = 0x7 → decodeWord w = some (.addImm (fieldsOf w).vx (fieldsOf w).nn)) ∧
  ∀ (x : RegIx) (nn : Byte) (s : State), ∃ t, exec (.addImm x nn) s = .next t ∧
    (t.getV x).toNat = ((s.getV x).toNat + nn.toNat) % 256 ∧ t.pc = s.pc + 2 ∧ OnlyRegs [x] s t

/-- R96, R97, R98 (D10, log entry 7): the bitwise operations, bit by bit; VF is not reset. -/
def Obligations.LogicOperationsActBitwise : Prop :=
  ∀ (x y : RegIx) (s : State),
    (∃ t, exec (.orReg x y) s = .next t ∧ t.pc = s.pc + 2 ∧ OnlyRegs [x] s t ∧
      ∀ b, (t.getV x).getLsbD b = ((s.getV x).getLsbD b || (s.getV y).getLsbD b)) ∧
    (∃ t, exec (.andReg x y) s = .next t ∧ t.pc = s.pc + 2 ∧ OnlyRegs [x] s t ∧
      ∀ b, (t.getV x).getLsbD b = ((s.getV x).getLsbD b && (s.getV y).getLsbD b)) ∧
    ∃ t, exec (.xorReg x y) s = .next t ∧ t.pc = s.pc + 2 ∧ OnlyRegs [x] s t ∧
      ∀ b, (t.getV x).getLsbD b = ((s.getV x).getLsbD b ^^ (s.getV y).getLsbD b)

/-- R99 (with `x` = F the flag stays, R90's reading D11, log entry 8): ADD Vx, Vy sets VF to the carry, the result elsewhere
modulo 256. -/
def Obligations.AddSetsCarry : Prop :=
  ∀ (x y : RegIx) (s : State), ∃ t, exec (.addReg x y) s = .next t ∧
    (x ≠ VF → (t.getV x).toNat = ((s.getV x).toNat + (s.getV y).toNat) % 256) ∧
    (t.getV VF).toNat = (if (s.getV x).toNat + (s.getV y).toNat > 255 then 1 else 0) ∧
    t.pc = s.pc + 2 ∧ OnlyRegs [x, VF] s t

/-- R100, R102 (D11, log entry 8): SUB and SUBN set VF to "no borrow", equal operands giving 1. -/
def Obligations.SubtractionsSetNoBorrow : Prop :=
  ∀ (x y : RegIx) (s : State),
    (∃ t, exec (.subReg x y) s = .next t ∧
      (x ≠ VF → (t.getV x).toNat = ((s.getV x).toNat + 256 - (s.getV y).toNat) % 256) ∧
      (t.getV VF).toNat = (if (s.getV x).toNat ≥ (s.getV y).toNat then 1 else 0) ∧
      t.pc = s.pc + 2 ∧ OnlyRegs [x, VF] s t) ∧
    ∃ t, exec (.subnReg x y) s = .next t ∧
      (x ≠ VF → (t.getV x).toNat = ((s.getV y).toNat + 256 - (s.getV x).toNat) % 256) ∧
      (t.getV VF).toNat = (if (s.getV y).toNat ≥ (s.getV x).toNat then 1 else 0) ∧
      t.pc = s.pc + 2 ∧ OnlyRegs [x, VF] s t

/-- R101, R103 (D9 and D11, log entries 6 and 8): SHR and SHL shift `V[x]` by one, read no `V[y]`, and set VF to the dropped bit. -/
def Obligations.ShiftsSetTheDroppedBit : Prop :=
  ∀ (x y : RegIx) (s : State),
    (∃ t, exec (.shr x y) s = .next t ∧ (x ≠ VF → (t.getV x).toNat = (s.getV x).toNat / 2) ∧
      (t.getV VF).toNat = (s.getV x).toNat % 2 ∧ t.pc = s.pc + 2 ∧ OnlyRegs [x, VF] s t) ∧
    ∃ t, exec (.shl x y) s = .next t ∧ (x ≠ VF → (t.getV x).toNat = (s.getV x).toNat * 2 % 256) ∧
      (t.getV VF).toNat = (s.getV x).toNat / 128 ∧ t.pc = s.pc + 2 ∧ OnlyRegs [x, VF] s t

/-- R105, R106 (D25, log entry 1): RND writes the oracle's byte masked by `nn` and takes exactly one draw, whatever the byte and
whatever number the draw has; no bit that `nn` clears is set. No transaction, `load` and a failed `load` among them, takes the oracle
back to an earlier draw, so that in a session each CXNN has a draw of its own (`draws` is the model's own). -/
def Obligations.RandomByteIsMasked : Prop :=
  (∀ (b : Bench) (t : Transaction), b.draws ≤ (transact b t).1.draws) ∧
  ∀ (x : RegIx) (nn : Byte) (s : State), ∃ t, exec (.rnd x nn) s = .next t ∧
    t.getV x = Config.freeByte s.draws &&& nn ∧ t.draws = s.draws + 1 ∧
    (∀ b, nn.getLsbD b = false → (t.getV x).getLsbD b = false) ∧ t.pc = s.pc + 2 ∧ OnlyRegs [x] s t

/-- R19, R104: no instruction changes a register but those listed for it; in particular VF changes only as a destination or as the
flag of 8XY4 to 8XYE and DXYN, and such a flag is 0 or 1. That OR, AND and XOR leave VF is D10 (log entry 7), that FX1E does is D12 (log
entry 9), that the flag is the last write is D11 (log entry 8). -/
def Obligations.RegistersChangeOnlyAsListed : Prop :=
  (∀ (i : Instr) (s t : State) (r : RegIx), exec i s = .next t → t.getV r ≠ s.getV r → writesReg i r = true) ∧
  ∀ (x y : RegIx) (n : Nibble) (i : Instr) (s t : State),
    i ∈ [.addReg x y, .subReg x y, .shr x y, .subnReg x y, .shl x y, .drw x y n] → exec i s = .next t →
      t.getV VF = 0 ∨ t.getV VF = 1

/-! ## Index register and memory (42_index_memory.md) -/

/-- R110: LD I, nnn. -/
def Obligations.LoadIndexSetsTheAddress : Prop :=
  (∀ w, (fieldsOf w).f = 0xA → decodeWord w = some (.ldI (fieldsOf w).nnn)) ∧
  ∀ (nnn : Addr12) (s : State), ∃ t, exec (.ldI nnn) s = .next t ∧
    t.i.toNat = nnn.toNat ∧ t.i.toNat ≤ 0xFFF ∧ t.pc = s.pc + 2 ∧ OnlyIndex s t

/-- R111, R112 (D12 and D14, log entries 9 and 11): ADD I, Vx adds modulo 2^16 and leaves VF; LD F, Vx points at the glyph of the
low nibble. -/
def Obligations.IndexArithmetic : Prop :=
  ∀ (x : RegIx) (s : State),
    (∃ t, exec (.addIVx x) s = .next t ∧ t.i.toNat = (s.i.toNat + (s.getV x).toNat) % 65536 ∧
      t.pc = s.pc + 2 ∧ OnlyIndex s t) ∧
    ∃ t, exec (.ldFVx x) s = .next t ∧ t.i.toNat = 5 * ((s.getV x).toNat % 16) ∧ t.pc = s.pc + 2 ∧ OnlyIndex s t

/-- R113 (D13, D17, log entries 10 and 13): LD B stores the hundreds, tens and units of `V[x]` at `I`, `I + 1`, `I + 2` if all three
are inside memory, and nothing else; else it raises the error. -/
def Obligations.DecimalDigitsAreStored : Prop :=
  ∀ (x : RegIx) (s : State),
    (s.i.toNat + 2 ≤ 0xFFF → ∃ t, exec (.ldBVx x) s = .next t ∧
      (s.getV x).toNat = 100 * (t.readByte s.i.toNat).toNat + 10 * (t.readByte (s.i.toNat + 1)).toNat +
        (t.readByte (s.i.toNat + 2)).toNat ∧
      (t.readByte s.i.toNat).toNat ≤ 2 ∧ (t.readByte (s.i.toNat + 1)).toNat ≤ 9 ∧
      (t.readByte (s.i.toNat + 2)).toNat ≤ 9 ∧ t.pc = s.pc + 2 ∧ OnlyBytes s.i.toNat 3 s t) ∧
    (s.i.toNat + 2 > 0xFFF → exec (.ldBVx x) s = .fault (.memoryOutOfBounds (max s.i.toNat 0x1000)))

/-- R114 (D13, D17, log entries 10 and 13): LD [I], Vx stores `V[0]` to `V[x]` at `I` on if all are inside memory, and nothing else;
else it raises the error. -/
def Obligations.RegistersAreStored : Prop :=
  ∀ (x : RegIx) (s : State),
    (s.i.toNat + x.val ≤ 0xFFF → ∃ t, exec (.ldMemVx x) s = .next t ∧
      (∀ k : RegIx, k ≤ x → t.readByte (s.i.toNat + k.val) = s.getV k) ∧
      t.pc = s.pc + 2 ∧ OnlyBytes s.i.toNat (x.val + 1) s t) ∧
    (s.i.toNat + x.val > 0xFFF → exec (.ldMemVx x) s = .fault (.memoryOutOfBounds (max s.i.toNat 0x1000)))

/-- R115 (D13, D17, log entries 10 and 13): LD Vx, [I] loads `V[0]` to `V[x]` from `I` on if all are inside memory, and changes
nothing else; else it raises the error. -/
def Obligations.RegistersAreLoaded : Prop :=
  ∀ (x : RegIx) (s : State),
    (s.i.toNat + x.val ≤ 0xFFF → ∃ t, exec (.ldVxMem x) s = .next t ∧
      (∀ k : RegIx, k ≤ x → t.getV k = s.readByte (s.i.toNat + k.val)) ∧
      t.pc = s.pc + 2 ∧ OnlyRegs ((List.finRange 16).filter fun k => k ≤ x) s t) ∧
    (s.i.toNat + x.val > 0xFFF → exec (.ldVxMem x) s = .fault (.memoryOutOfBounds (max s.i.toNat 0x1000)))

/-- R35, R116: memory changes only where FX33 and FX55 store, inside 0x000 to 0xFFF; every other byte reads as before, for every
instruction. -/
def Obligations.MemoryChangesOnlyWhereStored : Prop :=
  ∀ (i : Instr) (s t : State) (a : Nat), exec i s = .next t → t.readByte a ≠ s.readByte a → storesTo s i a ∧ a ≤ 0xFFF

/-- R55 (D33, log entry 21): two register bytes stored by FX55 at the address of the next instruction are the very word the next
step fetches. -/
def Obligations.StoredCodeIsFetched : Prop :=
  ∀ (x : RegIx) (s t : State), 1 ≤ x.val → exec (.ldMemVx x) s = .next t → s.i = s.pc + 2 →
    t.fetch = .ok (wordOfBytes (s.getV 0) (s.getV 1))

/-- R22, R26, R27, R28, R31, R106: what only some instructions write: `I` (ANNN, FX1E, FX29), the stack (CALL, RET), `DT` (FX15),
`ST` (FX18), the display (CLS, DRW), the keypad (none), the oracle's count (RND; the model's own, log entry 1). -/
def Obligations.SpecialStateChangesOnlyAsListed : Prop :=
  ∀ (i : Instr) (s t : State), exec i s = .next t →
    (t.i ≠ s.i → (∃ nnn, i = .ldI nnn) ∨ (∃ x, i = .addIVx x) ∨ ∃ x, i = .ldFVx x) ∧
    (t.stack ≠ s.stack → (∃ nnn, i = .call nnn) ∨ ∃ k, i = .ret k) ∧
    (t.dt ≠ s.dt → ∃ x, i = .ldDtVx x) ∧ (t.st ≠ s.st → ∃ x, i = .ldStVx x) ∧
    (t.display ≠ s.display → (∃ k, i = .cls k) ∨ ∃ x y n, i = .drw x y n) ∧
    t.key = s.key ∧ (t.draws ≠ s.draws → ∃ x nn, i = .rnd x nn)

/-! ## Framebuffer (43_display.md) -/

/-- R121 (D6 for the ignored nibble): CLS makes every pixel false and changes nothing else, VF included. -/
def Obligations.ClearScreenClearsEveryPixel : Prop :=
  ∀ (skip : Nibble) (s : State), ∃ t, exec (.cls skip) s = .next t ∧
    (∀ x y, t.display.pixel x y = false) ∧ t.pc = s.pc + 2 ∧ OnlyRegsAndDisplay [] s t

/-- R122, R123, R125 (bit order D19, log entry 16): a draw with legal arguments toggles exactly the pixels under a 1 bit of the
sprite, sets VF to 1 iff one of them was lit, and changes nothing else: the loop over rows and bits is this pixel-by-pixel
description. -/
def Obligations.DrawTogglesTheSpritePixels : Prop :=
  ∀ (x y : RegIx) (n : Nibble) (s : State),
    (s.getV x).toNat < 64 → (s.getV y).toNat < 32 → n.toNat ≠ 0 → s.i.toNat + n.toNat ≤ 0x1000 →
    ∃ t, exec (.drw x y n) s = .next t ∧
      (∀ px py, spriteCovers s (s.getV x).toNat (s.getV y).toNat n.toNat px py →
        t.display.pixel px py = !s.display.pixel px py) ∧
      (∀ px py, ¬spriteCovers s (s.getV x).toNat (s.getV y).toNat n.toNat px py →
        t.display.pixel px py = s.display.pixel px py) ∧
      (t.getV VF = 1 ↔ ∃ px py, spriteCovers s (s.getV x).toNat (s.getV y).toNat n.toNat px py ∧
        s.display.pixel px py = true) ∧
      (t.getV VF = 0 ∨ t.getV VF = 1) ∧ t.pc = s.pc + 2 ∧ OnlyRegsAndDisplay [VF] s t

/-- R122, R145 (D18, log entry 15): illegal draw arguments raise `InvalidDrawArgs` even where the range check would fail too; legal
ones with a sprite that ends outside memory raise `MemoryOutOfBounds`. -/
def Obligations.DrawErrorsInOrder : Prop :=
  ∀ (x y : RegIx) (n : Nibble) (s : State),
    ((s.getV x).toNat ≥ 64 ∨ (s.getV y).toNat ≥ 32 ∨ n.toNat = 0 →
      exec (.drw x y n) s = .fault (.invalidDrawArgs (s.getV x) (s.getV y) n)) ∧
    ((s.getV x).toNat < 64 → (s.getV y).toNat < 32 → n.toNat ≠ 0 → s.i.toNat + n.toNat > 0x1000 →
      exec (.drw x y n) s = .fault (.memoryOutOfBounds (max s.i.toNat 0x1000)))

/-- R122, R124 (bit order D19, log entry 16): the same sprite drawn twice restores every pixel. The second draw reports a collision iff some pixel under the
sprite was clear before the first (R122); so where the first reported none, iff the sprite has a 1 bit (log entry 32). -/
def Obligations.DrawTwiceRestoresTheDisplay : Prop :=
  ∀ (x y : RegIx) (n : Nibble) (s t : State), x ≠ VF → y ≠ VF → exec (.drw x y n) s = .next t →
    ∃ u, exec (.drw x y n) t = .next u ∧ u.display = s.display ∧
      (u.getV VF = 1 ↔ ∃ px py, spriteCovers s (s.getV x).toNat (s.getV y).toNat n.toNat px py ∧
        s.display.pixel px py = false) ∧
      (t.getV VF = 0 → (u.getV VF = 1 ↔
        ∃ r c, r < n.toNat ∧ c < 8 ∧ (s.readByte (s.i.toNat + r)).getLsbD c = true))

/-- R124 as it is written, "the second draw sets VF = 1 whenever the sprite has at least one 1 bit": expected to FAIL, because by R122
a sprite drawn on pixels that are all lit erases them first and lights them again second (log entry 32). -/
def Obligations.SecondDrawAlwaysCollides : Prop :=
  ∀ (x y : RegIx) (n : Nibble) (s t u : State), x ≠ VF → y ≠ VF →
    exec (.drw x y n) s = .next t → exec (.drw x y n) t = .next u →
    (∃ r c, r < n.toNat ∧ c < 8 ∧ (s.readByte (s.i.toNat + r)).getLsbD c = true) → u.getV VF = 1

/-! ## Keys and timers (44_keys_timers.md) -/

/-- R130, R131 (D15, log entry 11): the key skips test the key of the low nibble of `V[x]` and change nothing but `pc`. -/
def Obligations.KeySkipsTestTheKey : Prop :=
  ∀ (x : RegIx) (k : KeyIx) (s : State), k.val = (s.getV x).toNat % 16 →
    (∃ t, exec (.skp x) s = .next t ∧ OnlyRegs [] s t ∧ t.pc = if s.getKey k = true then s.pc + 4 else s.pc + 2) ∧
    ∃ t, exec (.sknp x) s = .next t ∧ OnlyRegs [] s t ∧ t.pc = if s.getKey k = true then s.pc + 2 else s.pc + 4

/-- R133 (D16, log entry 12): with no key pressed FX0A changes nothing at all; else it writes the least pressed key. -/
def Obligations.KeyWaitTakesTheLeastKey : Prop :=
  ∀ (x : RegIx) (s : State),
    ((∀ k, s.getKey k = false) → exec (.ldVxK x) s = .next s) ∧
    ∀ k, s.getKey k = true → (∀ j, j < k → s.getKey j = false) →
      ∃ t, exec (.ldVxK x) s = .next t ∧ (t.getV x).toNat = k.val ∧ t.pc = s.pc + 2 ∧ OnlyRegs [x] s t

/-- R132: FX07 reads the delay timer, and no step but FX15 changes it (R27, R134: R132's own words leave FX15 out, log entry 33). -/
def Obligations.DelayTimerIsRead : Prop :=
  (∀ w, (fieldsOf w).f = 0xF → (fieldsOf w).nn = 0x07 → decodeWord w = some (.ldVxDt (fieldsOf w).vx)) ∧
  (∀ (x : RegIx) (s : State), ∃ t, exec (.ldVxDt x) s = .next t ∧ t.getV x = s.dt ∧ t.pc = s.pc + 2 ∧ OnlyRegs [x] s t) ∧
  ∀ s t, step s = .next t → (∀ x, s.fetchInstr ≠ .ok (.ldDtVx x)) → t.dt = s.dt

/-- R134, R135: FX15 and FX18 set their timer and nothing else, 0 stopping it; `sound_active` follows `ST` at once, and after a
write of 1 it holds until the next `tick`. -/
def Obligations.TimersAreSet : Prop :=
  (∀ w, (fieldsOf w).f = 0xF → (fieldsOf w).nn = 0x15 → decodeWord w = some (.ldDtVx (fieldsOf w).vx)) ∧
  (∀ w, (fieldsOf w).f = 0xF → (fieldsOf w).nn = 0x18 → decodeWord w = some (.ldStVx (fieldsOf w).vx)) ∧
  ∀ (x : RegIx) (s : State),
    (∃ t, exec (.ldDtVx x) s = .next t ∧ t.dt = s.getV x ∧ t.st = s.st ∧ t.pc = s.pc + 2 ∧ OnlyTimers s t ∧
      (tick t).dt.toNat = (s.getV x).toNat - 1) ∧
    ∃ t, exec (.ldStVx x) s = .next t ∧ t.st = s.getV x ∧ t.dt = s.dt ∧ t.pc = s.pc + 2 ∧ OnlyTimers s t ∧
      (soundActive t = true ↔ (s.getV x).toNat > 0) ∧ (soundActive (tick t) = true ↔ (s.getV x).toNat > 1)

/-- R28, R30: no instruction reads `ST`, and none but DXYN reads the display: a step of two cores that differ only there ends alike
and leaves them differing only there. The two cores share the position of the random oracle, so that an RND takes the same draw in both
(D25, log entry 1). -/
def Obligations.SoundTimerAndDisplayAreNotRead : Prop :=
  ∀ (i : Instr) (s : State) (b : Byte) (g : Display), (∀ x y n, i ≠ .drw x y n) →
    (∀ f, exec i s = .fault f → exec i ((s.setSt b).setDisplay g) = .fault f) ∧
    ∀ t, exec i s = .next t → ∃ u, exec i ((s.setSt b).setDisplay g) = .next u ∧
      (u.setSt t.st).setDisplay t.display = t ∧
      ((∀ x, i ≠ .ldStVx x) → u.st = b) ∧ ((∀ k, i ≠ .cls k) → u.display = g)

/-! ## The host's transactions and reset (60_exceptions.md, 70_reset_and_hazards.md) -/

/-- R152: `tick` takes one from each nonzero timer, independently, never below zero, and changes nothing else. -/
def Obligations.TickDecrementsBothTimers : Prop :=
  ∀ s : State, transact (.running s) .tick = (.running (tick s), .ok) ∧
    (tick s).dt.toNat = s.dt.toNat - 1 ∧ (tick s).st.toNat = s.st.toNat - 1 ∧
    tick s = { s with dt := (tick s).dt, st := (tick s).st }

/-- R153, R154: `set_key` sets the one key and nothing else; `sound_active` is `ST > 0` and changes nothing. -/
def Obligations.SetKeyAndSoundActive : Prop :=
  (∀ (s : State) (k : KeyIx) (b : Bool), ∃ t, transact (.running s) (.setKey k b) = (.running t, .ok) ∧
    (∀ j, t.getKey j = if j = k then b else s.getKey j) ∧ t = { s with key := t.key }) ∧
  ∀ s : State, ∃ b, transact (.running s) .soundActive = (.running s, .sound b) ∧ (b = true ↔ s.st.toNat > 0)

/-- R155, R159 (D29, D31, log entry 27): `read_framebuffer` gives the display and `snapshot` the whole state; neither changes
anything. -/
def Obligations.QueriesChangeNothing : Prop :=
  ∀ s : State, transact (.running s) .readFramebuffer = (.running s, .framebuffer s.display) ∧
    transact (.running s) .snapshot = (.running s, .state s)

/-- R143, R146 (D4, D34, log entry 4): an error leaves the whole state, is the reply the host gets, and is raised again by a later
`step`, whatever transactions but `load` come between. -/
def Obligations.ErrorsLeaveTheStateAndStick : Prop :=
  ∀ (s : State) (f : Fault) (ts : List Transaction), step s = .fault f → (∀ rom, .load rom ∉ ts) →
    transact (.running s) .step = (.running s, .err f) ∧
    ∃ t, (session (.running s) ts).1 = .running t ∧ transact (.running t) .step = (.running t, .err f)

/-- R137: while the core is at an FX0A and no key is pressed, steps, ticks and queries leave everything but the timers; only a
`set_key` can end the wait. -/
def Obligations.KeyWaitEndsOnlyByAKey : Prop :=
  ∀ (s : State) (x : RegIx) (ts : List Transaction), s.fetchInstr = .ok (.ldVxK x) → (∀ k, s.getKey k = false) →
    (∀ rom, .load rom ∉ ts) → (∀ k b, .setKey k b ∉ ts) →
    ∃ t, (session (.running s) ts).1 = .running t ∧ t = { s with dt := t.dt, st := t.st }

/-- R165, R167 (D24, D30, log entries 2 and 22): a ROM of at most 3584 bytes loads whatever went before, its bytes stand verbatim
from 0x200 on, and everything else is as at reset; a longer one leaves no core. The position of the random oracle is kept either way
(the model's own count, log entry 1). -/
def Obligations.LoadPlacesTheRom : Prop :=
  ∀ (rom : List Byte) (b : Bench),
    (rom.length ≤ 3584 → ∃ t, transact b (.load rom) = (.running t, .ok) ∧
      (∀ k (h : k < rom.length), t.readByte (0x200 + k) = rom[k]) ∧
      (∀ a, a < 0x200 ∨ 0x200 + rom.length ≤ a → t.readByte a = State.reset.readByte a) ∧
      t = { State.reset with mem := t.mem, draws := b.draws }) ∧
    (rom.length > 3584 → transact b (.load rom) = (.empty b.draws, .err (.romTooLarge rom.length)))

/-- R34, R36 (zeros D24, log entry 2; font bytes D22, log entry 3): what reset leaves. -/
def Obligations.ResetState : Prop :=
  State.reset.pc = 0x200 ∧ State.reset.stack = [] ∧ (∀ r, State.reset.getV r = 0) ∧ State.reset.i = 0 ∧
  State.reset.dt = 0 ∧ State.reset.st = 0 ∧ (∀ x y, State.reset.display.pixel x y = false) ∧
  (∀ k, State.reset.getKey k = false) ∧ Config.font.length = 80 ∧
  (∀ d k, d < 16 → k < 5 → State.reset.readByte (5 * d + k) = Config.font.getD (5 * d + k) 0) ∧
  (∀ a, 0x50 ≤ a → State.reset.readByte a = 0) ∧ load 0 [] = .next State.reset

/-! ## The invariant -/

/-- The invariant holds right after reset. -/
def Obligations.ResetMeetsTheInvariant : Prop := State.reset.Inv

/-- From every state that meets the invariant (memory canonical, at most 16 return addresses, each at most 0x1000, `pc` at most
0x10FE: R21, R23, R75, R77, R83), a step gives a state that meets it. -/
def Obligations.EveryStepKeepsTheInvariant : Prop :=
  ∀ s t : State, s.Inv → step s = .next t → t.Inv

/-- Every core a host can make, by any session from power-on, meets the invariant (R157: every interleaving of transactions). -/
def Obligations.EverySessionKeepsTheInvariant : Prop :=
  ∀ (ts : List Transaction) (t : State), (session .powerOn ts).1 = .running t → t.Inv
end

