-- ==== Sys2Proof/Laws/Decode.lean ====
section
/-! SUPPORT. The laws of the decoder: the words and fields as numbers, the fields of each word format, and what `decode` answers. -/

namespace Sys2Proof

/-- Two bit vectors side by side, as a number. -/
theorem toNat_append_eq {m n : Nat} (a : BitVec m) (b : BitVec n) : (a ++ b).toNat = a.toNat * 2 ^ n + b.toNat := by
  rw [BitVec.toNat_append, ← Nat.shiftLeft_add_eq_or_of_lt b.isLt, Nat.shiftLeft_eq]

@[simp] theorem regOfNibble_nibbleOfReg (r : RegIx) : regOfNibble (nibbleOfReg r) = r := rfl

@[simp] theorem nibbleOfReg_regOfNibble (b : Nibble) : nibbleOfReg (regOfNibble b) = b := rfl

theorem toNat_wordOfBytes (hi lo : Byte) : (wordOfBytes hi lo).toNat = hi.toNat * 256 + lo.toNat :=
  toNat_append_eq hi lo

theorem toNat_wordNNN (f : Nibble) (nnn : Addr12) : (wordNNN f nnn).toNat = f.toNat * 4096 + nnn.toNat :=
  toNat_append_eq f nnn

theorem toNat_wordXNN (f x : Nibble) (nn : Byte) :
    (wordXNN f x nn).toNat = f.toNat * 4096 + (x.toNat * 256 + nn.toNat) :=
  (toNat_append_eq f (x ++ nn : BitVec 12)).trans (congrArg _ (toNat_append_eq x nn))

theorem toNat_wordXYN (f x y n : Nibble) :
    (wordXYN f x y n).toNat = f.toNat * 4096 + (x.toNat * 256 + (y.toNat * 16 + n.toNat)) :=
  (toNat_append_eq f (x ++ (y ++ n : BitVec 8) : BitVec 12)).trans
    (congrArg _ ((toNat_append_eq x (y ++ n : BitVec 8)).trans (congrArg _ (toNat_append_eq y n))))

/-- The bits from `start` on, as a number. -/
theorem toNat_extractLsb'_eq {w : Nat} (v : BitVec w) (start len : Nat) :
    (v.extractLsb' start len).toNat = v.toNat / 2 ^ start % 2 ^ len := by
  rw [BitVec.extractLsb'_toNat, Nat.shiftRight_eq_div_pow]

/-- The fields of a word, as numbers (R56). -/
theorem toNat_fieldsOf (w : Word) :
    (fieldsOf w).f.toNat = w.toNat / 4096 ∧ (fieldsOf w).x.toNat = w.toNat / 256 % 16 ∧
    (fieldsOf w).y.toNat = w.toNat / 16 % 16 ∧ (fieldsOf w).n.toNat = w.toNat % 16 ∧
    (fieldsOf w).nn.toNat = w.toNat % 256 ∧ (fieldsOf w).nnn.toNat = w.toNat % 4096 := by
  have h := w.isLt
  simp only [fieldsOf, toNat_extractLsb'_eq]
  omega

/-- The two bytes of a word make it up again. -/
@[simp] theorem wordOfBytes_high_low (w : Word) : wordOfBytes (highByte w) (lowByte w) = w := by
  have h := w.isLt
  apply BitVec.eq_of_toNat_eq
  simp only [toNat_wordOfBytes, highByte, lowByte, toNat_extractLsb'_eq]
  omega

@[simp] theorem highByte_wordOfBytes (hi lo : Byte) : highByte (wordOfBytes hi lo) = hi := by
  have h := hi.isLt; have h' := lo.isLt
  apply BitVec.eq_of_toNat_eq
  simp only [highByte, toNat_extractLsb'_eq, toNat_wordOfBytes]
  omega

@[simp] theorem lowByte_wordOfBytes (hi lo : Byte) : lowByte (wordOfBytes hi lo) = lo := by
  have h := hi.isLt; have h' := lo.isLt
  apply BitVec.eq_of_toNat_eq
  simp only [lowByte, toNat_extractLsb'_eq, toNat_wordOfBytes]
  omega

/-- The selecting fields and the operands of a word of format `f-nnn`. -/
@[simp] theorem fieldsOf_wordNNN (f : Nibble) (nnn : Addr12) :
    (fieldsOf (wordNNN f nnn)).f = f ∧ (fieldsOf (wordNNN f nnn)).nnn = nnn := by
  obtain ⟨hf, -, -, -, -, hn⟩ := toNat_fieldsOf (wordNNN f nnn)
  have h := nnn.isLt
  rw [toNat_wordNNN] at hf hn
  exact ⟨BitVec.eq_of_toNat_eq (by omega), BitVec.eq_of_toNat_eq (by omega)⟩

/-- The selecting fields and the operands of a word of format `f-x-nn`. -/
@[simp] theorem fieldsOf_wordXNN (f x : Nibble) (nn : Byte) :
    (fieldsOf (wordXNN f x nn)).f = f ∧ (fieldsOf (wordXNN f x nn)).x = x ∧ (fieldsOf (wordXNN f x nn)).nn = nn := by
  obtain ⟨hf, hx, -, -, hn, -⟩ := toNat_fieldsOf (wordXNN f x nn)
  have h := nn.isLt; have h' := x.isLt
  rw [toNat_wordXNN] at hf hx hn
  exact ⟨BitVec.eq_of_toNat_eq (by omega), BitVec.eq_of_toNat_eq (by omega), BitVec.eq_of_toNat_eq (by omega)⟩

/-- The fields of a word of format `f-x-y-n`. -/
@[simp] theorem fieldsOf_wordXYN (f x y n : Nibble) :
    (fieldsOf (wordXYN f x y n)).f = f ∧ (fieldsOf (wordXYN f x y n)).x = x ∧
    (fieldsOf (wordXYN f x y n)).y = y ∧ (fieldsOf (wordXYN f x y n)).n = n := by
  obtain ⟨hf, hx, hy, hn, -, -⟩ := toNat_fieldsOf (wordXYN f x y n)
  have h := x.isLt; have h' := y.isLt; have h'' := n.isLt
  rw [toNat_wordXYN] at hf hx hy hn
  exact ⟨BitVec.eq_of_toNat_eq (by omega), BitVec.eq_of_toNat_eq (by omega), BitVec.eq_of_toNat_eq (by omega),
    BitVec.eq_of_toNat_eq (by omega)⟩

/-- The fields make the word up again, in each format. -/
theorem word_of_fields (w : Word) :
    wordNNN (fieldsOf w).f (fieldsOf w).nnn = w ∧ wordXNN (fieldsOf w).f (fieldsOf w).x (fieldsOf w).nn = w ∧
    wordXYN (fieldsOf w).f (fieldsOf w).x (fieldsOf w).y (fieldsOf w).n = w := by
  obtain ⟨hf, hx, hy, hn, hnn, hnnn⟩ := toNat_fieldsOf w
  have h := w.isLt
  refine ⟨BitVec.eq_of_toNat_eq ?_, BitVec.eq_of_toNat_eq ?_, BitVec.eq_of_toNat_eq ?_⟩
  · rw [toNat_wordNNN]; omega
  · rw [toNat_wordXNN]; omega
  · rw [toNat_wordXYN]; omega

/-- This core has every instruction of the type (R8: `STRICT_SUBSELECT` is false). -/
@[simp] theorem Instr.wellFormed_eq_true (i : Instr) : i.wellFormed = true := rfl

/-- On this core the well-formedness filter takes nothing away: `decodeWord` is `Select` after `Decode`. -/
theorem decodeWord_eq (w : Word) : decodeWord w = selectFields (fieldsOf w) := by
  unfold decodeWord
  cases selectFields (fieldsOf w) <;> simp [Option.filter]

/-- What `decode` answers on two bytes or more. -/
theorem decode_cons_cons (hi lo : Byte) (rest : List Byte) :
    decode (hi :: lo :: rest) =
      match decodeWord (wordOfBytes hi lo) with
      | some i => .ok (i, rest)
      | none => .error (.unknownOpcode (wordOfBytes hi lo)) := rfl

/-- All that `decode` can answer: an instruction and the bytes after its two. -/
theorem decode_eq_ok {bytes : List Byte} {i : Instr} {rest : List Byte} (h : decode bytes = .ok (i, rest)) :
    ∃ hi lo, bytes = hi :: lo :: rest ∧ decodeWord (wordOfBytes hi lo) = some i := by
  match bytes with
  | [] => simp [decode] at h
  | [_] => simp [decode] at h
  | hi :: lo :: rest' =>
    rw [decode_cons_cons] at h
    split at h
    · rename_i j hj
      simp only [Except.ok.injEq, Prod.mk.injEq] at h
      exact ⟨hi, lo, by rw [h.2], by rw [hj, h.1]⟩
    · simp at h

/-! ### The masks of the opcode table -/

theorem getLsbD_wordNNN (f : Nibble) (nnn : Addr12) (k : Nat) :
    (wordNNN f nnn).getLsbD k = if k < 12 then nnn.getLsbD k else f.getLsbD (k - 12) :=
  BitVec.getLsbD_append (x := f) (y := nnn)

theorem getLsbD_wordXNN (f x : Nibble) (nn : Byte) (k : Nat) :
    (wordXNN f x nn).getLsbD k =
      if k < 12 then (if k < 8 then nn.getLsbD k else x.getLsbD (k - 8)) else f.getLsbD (k - 12) :=
  (BitVec.getLsbD_append (x := f) (y := (x ++ nn : BitVec 12))).trans
    (by rw [show (x ++ nn : BitVec 12).getLsbD k = _ from BitVec.getLsbD_append (x := x) (y := nn)])

theorem getLsbD_wordXYN (f x y n : Nibble) (k : Nat) :
    (wordXYN f x y n).getLsbD k =
      if k < 12 then (if k < 8 then (if k < 4 then n.getLsbD k else y.getLsbD (k - 4)) else x.getLsbD (k - 8))
      else f.getLsbD (k - 12) :=
  (BitVec.getLsbD_append (x := f) (y := (x ++ (y ++ n : BitVec 8) : BitVec 12))).trans
    (by rw [show (x ++ (y ++ n : BitVec 8) : BitVec 12).getLsbD k = _ from
          BitVec.getLsbD_append (x := x) (y := (y ++ n : BitVec 8)),
        show (y ++ n : BitVec 8).getLsbD k = _ from BitVec.getLsbD_append (x := y) (y := n)])

/-- The mask 0xF000 keeps the leading nibble. -/
theorem wordNNN_and_F000 (f : Nibble) (nnn : Addr12) : wordNNN f nnn &&& 0xF000 = wordNNN f 0 := by
  apply BitVec.eq_of_getLsbD_eq
  intro k hk
  rw [BitVec.getLsbD_and, getLsbD_wordNNN, getLsbD_wordNNN]
  interval_cases k <;> simp

/-- The mask 0xF0FF keeps the leading nibble and the trailing byte. -/
theorem wordXNN_and_F0FF (f x : Nibble) (nn : Byte) : wordXNN f x nn &&& 0xF0FF = wordXNN f 0 nn := by
  apply BitVec.eq_of_getLsbD_eq
  intro k hk
  rw [BitVec.getLsbD_and, getLsbD_wordXNN, getLsbD_wordXNN]
  interval_cases k <;> simp

/-- The mask 0xF00F keeps the leading and the trailing nibble. -/
theorem wordXYN_and_F00F (f x y n : Nibble) : wordXYN f x y n &&& 0xF00F = wordXYN f 0 0 n := by
  apply BitVec.eq_of_getLsbD_eq
  intro k hk
  rw [BitVec.getLsbD_and, getLsbD_wordXYN, getLsbD_wordXYN]
  interval_cases k <;> simp

/-- A word of format `f-x-nn` is one of format `f-nnn`. -/
theorem wordXNN_eq_wordNNN (f x : Nibble) (nn : Byte) : wordXNN f x nn = wordNNN f (x ++ nn : BitVec 12) := rfl

/-- A word of format `f-x-y-n` is one of format `f-nnn`. -/
theorem wordXYN_eq_wordNNN (f x y n : Nibble) :
    wordXYN f x y n = wordNNN f (x ++ (y ++ n : BitVec 8) : BitVec 12) := rfl

end Sys2Proof
end

