-- ==== Sys2Proof/Laws/State.lean ====
section
/-! SUPPORT. One lemma per field per update of the state, and per accessor where an update leaves it alone: later proofs cite these
and unfold no record update. -/

namespace Sys2Proof.Machine

/-! ### setV -/

@[simp] theorem State.setV_v (s : State) (x : RegIx) (b : Byte) : (s.setV x b).v = s.v.set x.val b := rfl
@[simp] theorem State.setV_i (s : State) (x : RegIx) (b : Byte) : (s.setV x b).i = s.i := rfl
@[simp] theorem State.setV_pc (s : State) (x : RegIx) (b : Byte) : (s.setV x b).pc = s.pc := rfl
@[simp] theorem State.setV_stack (s : State) (x : RegIx) (b : Byte) : (s.setV x b).stack = s.stack := rfl
@[simp] theorem State.setV_dt (s : State) (x : RegIx) (b : Byte) : (s.setV x b).dt = s.dt := rfl
@[simp] theorem State.setV_st (s : State) (x : RegIx) (b : Byte) : (s.setV x b).st = s.st := rfl
@[simp] theorem State.setV_display (s : State) (x : RegIx) (b : Byte) : (s.setV x b).display = s.display := rfl
@[simp] theorem State.setV_key (s : State) (x : RegIx) (b : Byte) : (s.setV x b).key = s.key := rfl
@[simp] theorem State.setV_mem (s : State) (x : RegIx) (b : Byte) : (s.setV x b).mem = s.mem := rfl
@[simp] theorem State.setV_draws (s : State) (x : RegIx) (b : Byte) : (s.setV x b).draws = s.draws := rfl
@[simp] theorem State.setV_getKey (s : State) (x : RegIx) (b : Byte) (j : KeyIx) : (s.setV x b).getKey j = s.getKey j := rfl
@[simp] theorem State.setV_readByte (s : State) (x : RegIx) (b : Byte) (c : Nat) : (s.setV x b).readByte c = s.readByte c := rfl

/-! ### setRegs -/

@[simp] theorem State.setRegs_v (s : State) (v : Vector Byte 16) : (s.setRegs v).v = v := rfl
@[simp] theorem State.setRegs_i (s : State) (v : Vector Byte 16) : (s.setRegs v).i = s.i := rfl
@[simp] theorem State.setRegs_pc (s : State) (v : Vector Byte 16) : (s.setRegs v).pc = s.pc := rfl
@[simp] theorem State.setRegs_stack (s : State) (v : Vector Byte 16) : (s.setRegs v).stack = s.stack := rfl
@[simp] theorem State.setRegs_dt (s : State) (v : Vector Byte 16) : (s.setRegs v).dt = s.dt := rfl
@[simp] theorem State.setRegs_st (s : State) (v : Vector Byte 16) : (s.setRegs v).st = s.st := rfl
@[simp] theorem State.setRegs_display (s : State) (v : Vector Byte 16) : (s.setRegs v).display = s.display := rfl
@[simp] theorem State.setRegs_key (s : State) (v : Vector Byte 16) : (s.setRegs v).key = s.key := rfl
@[simp] theorem State.setRegs_mem (s : State) (v : Vector Byte 16) : (s.setRegs v).mem = s.mem := rfl
@[simp] theorem State.setRegs_draws (s : State) (v : Vector Byte 16) : (s.setRegs v).draws = s.draws := rfl
@[simp] theorem State.setRegs_getKey (s : State) (v : Vector Byte 16) (j : KeyIx) : (s.setRegs v).getKey j = s.getKey j := rfl
@[simp] theorem State.setRegs_readByte (s : State) (v : Vector Byte 16) (c : Nat) : (s.setRegs v).readByte c = s.readByte c := rfl

/-! ### setI -/

@[simp] theorem State.setI_v (s : State) (a : Word) : (s.setI a).v = s.v := rfl
@[simp] theorem State.setI_i (s : State) (a : Word) : (s.setI a).i = a := rfl
@[simp] theorem State.setI_pc (s : State) (a : Word) : (s.setI a).pc = s.pc := rfl
@[simp] theorem State.setI_stack (s : State) (a : Word) : (s.setI a).stack = s.stack := rfl
@[simp] theorem State.setI_dt (s : State) (a : Word) : (s.setI a).dt = s.dt := rfl
@[simp] theorem State.setI_st (s : State) (a : Word) : (s.setI a).st = s.st := rfl
@[simp] theorem State.setI_display (s : State) (a : Word) : (s.setI a).display = s.display := rfl
@[simp] theorem State.setI_key (s : State) (a : Word) : (s.setI a).key = s.key := rfl
@[simp] theorem State.setI_mem (s : State) (a : Word) : (s.setI a).mem = s.mem := rfl
@[simp] theorem State.setI_draws (s : State) (a : Word) : (s.setI a).draws = s.draws := rfl
@[simp] theorem State.setI_getV (s : State) (a : Word) (r : RegIx) : (s.setI a).getV r = s.getV r := rfl
@[simp] theorem State.setI_getKey (s : State) (a : Word) (j : KeyIx) : (s.setI a).getKey j = s.getKey j := rfl
@[simp] theorem State.setI_readByte (s : State) (a : Word) (c : Nat) : (s.setI a).readByte c = s.readByte c := rfl

/-! ### setPc -/

@[simp] theorem State.setPc_v (s : State) (a : Word) : (s.setPc a).v = s.v := rfl
@[simp] theorem State.setPc_i (s : State) (a : Word) : (s.setPc a).i = s.i := rfl
@[simp] theorem State.setPc_pc (s : State) (a : Word) : (s.setPc a).pc = a := rfl
@[simp] theorem State.setPc_stack (s : State) (a : Word) : (s.setPc a).stack = s.stack := rfl
@[simp] theorem State.setPc_dt (s : State) (a : Word) : (s.setPc a).dt = s.dt := rfl
@[simp] theorem State.setPc_st (s : State) (a : Word) : (s.setPc a).st = s.st := rfl
@[simp] theorem State.setPc_display (s : State) (a : Word) : (s.setPc a).display = s.display := rfl
@[simp] theorem State.setPc_key (s : State) (a : Word) : (s.setPc a).key = s.key := rfl
@[simp] theorem State.setPc_mem (s : State) (a : Word) : (s.setPc a).mem = s.mem := rfl
@[simp] theorem State.setPc_draws (s : State) (a : Word) : (s.setPc a).draws = s.draws := rfl
@[simp] theorem State.setPc_getV (s : State) (a : Word) (r : RegIx) : (s.setPc a).getV r = s.getV r := rfl
@[simp] theorem State.setPc_getKey (s : State) (a : Word) (j : KeyIx) : (s.setPc a).getKey j = s.getKey j := rfl
@[simp] theorem State.setPc_readByte (s : State) (a : Word) (c : Nat) : (s.setPc a).readByte c = s.readByte c := rfl

/-! ### setStack -/

@[simp] theorem State.setStack_v (s : State) (l : List Word) : (s.setStack l).v = s.v := rfl
@[simp] theorem State.setStack_i (s : State) (l : List Word) : (s.setStack l).i = s.i := rfl
@[simp] theorem State.setStack_pc (s : State) (l : List Word) : (s.setStack l).pc = s.pc := rfl
@[simp] theorem State.setStack_stack (s : State) (l : List Word) : (s.setStack l).stack = l := rfl
@[simp] theorem State.setStack_dt (s : State) (l : List Word) : (s.setStack l).dt = s.dt := rfl
@[simp] theorem State.setStack_st (s : State) (l : List Word) : (s.setStack l).st = s.st := rfl
@[simp] theorem State.setStack_display (s : State) (l : List Word) : (s.setStack l).display = s.display := rfl
@[simp] theorem State.setStack_key (s : State) (l : List Word) : (s.setStack l).key = s.key := rfl
@[simp] theorem State.setStack_mem (s : State) (l : List Word) : (s.setStack l).mem = s.mem := rfl
@[simp] theorem State.setStack_draws (s : State) (l : List Word) : (s.setStack l).draws = s.draws := rfl
@[simp] theorem State.setStack_getV (s : State) (l : List Word) (r : RegIx) : (s.setStack l).getV r = s.getV r := rfl
@[simp] theorem State.setStack_getKey (s : State) (l : List Word) (j : KeyIx) : (s.setStack l).getKey j = s.getKey j := rfl
@[simp] theorem State.setStack_readByte (s : State) (l : List Word) (c : Nat) : (s.setStack l).readByte c = s.readByte c := rfl

/-! ### setDt -/

@[simp] theorem State.setDt_v (s : State) (b : Byte) : (s.setDt b).v = s.v := rfl
@[simp] theorem State.setDt_i (s : State) (b : Byte) : (s.setDt b).i = s.i := rfl
@[simp] theorem State.setDt_pc (s : State) (b : Byte) : (s.setDt b).pc = s.pc := rfl
@[simp] theorem State.setDt_stack (s : State) (b : Byte) : (s.setDt b).stack = s.stack := rfl
@[simp] theorem State.setDt_dt (s : State) (b : Byte) : (s.setDt b).dt = b := rfl
@[simp] theorem State.setDt_st (s : State) (b : Byte) : (s.setDt b).st = s.st := rfl
@[simp] theorem State.setDt_display (s : State) (b : Byte) : (s.setDt b).display = s.display := rfl
@[simp] theorem State.setDt_key (s : State) (b : Byte) : (s.setDt b).key = s.key := rfl
@[simp] theorem State.setDt_mem (s : State) (b : Byte) : (s.setDt b).mem = s.mem := rfl
@[simp] theorem State.setDt_draws (s : State) (b : Byte) : (s.setDt b).draws = s.draws := rfl
@[simp] theorem State.setDt_getV (s : State) (b : Byte) (r : RegIx) : (s.setDt b).getV r = s.getV r := rfl
@[simp] theorem State.setDt_getKey (s : State) (b : Byte) (j : KeyIx) : (s.setDt b).getKey j = s.getKey j := rfl
@[simp] theorem State.setDt_readByte (s : State) (b : Byte) (c : Nat) : (s.setDt b).readByte c = s.readByte c := rfl

/-! ### setSt -/

@[simp] theorem State.setSt_v (s : State) (b : Byte) : (s.setSt b).v = s.v := rfl
@[simp] theorem State.setSt_i (s : State) (b : Byte) : (s.setSt b).i = s.i := rfl
@[simp] theorem State.setSt_pc (s : State) (b : Byte) : (s.setSt b).pc = s.pc := rfl
@[simp] theorem State.setSt_stack (s : State) (b : Byte) : (s.setSt b).stack = s.stack := rfl
@[simp] theorem State.setSt_dt (s : State) (b : Byte) : (s.setSt b).dt = s.dt := rfl
@[simp] theorem State.setSt_st (s : State) (b : Byte) : (s.setSt b).st = b := rfl
@[simp] theorem State.setSt_display (s : State) (b : Byte) : (s.setSt b).display = s.display := rfl
@[simp] theorem State.setSt_key (s : State) (b : Byte) : (s.setSt b).key = s.key := rfl
@[simp] theorem State.setSt_mem (s : State) (b : Byte) : (s.setSt b).mem = s.mem := rfl
@[simp] theorem State.setSt_draws (s : State) (b : Byte) : (s.setSt b).draws = s.draws := rfl
@[simp] theorem State.setSt_getV (s : State) (b : Byte) (r : RegIx) : (s.setSt b).getV r = s.getV r := rfl
@[simp] theorem State.setSt_getKey (s : State) (b : Byte) (j : KeyIx) : (s.setSt b).getKey j = s.getKey j := rfl
@[simp] theorem State.setSt_readByte (s : State) (b : Byte) (c : Nat) : (s.setSt b).readByte c = s.readByte c := rfl

/-! ### setDisplay -/

@[simp] theorem State.setDisplay_v (s : State) (g : Display) : (s.setDisplay g).v = s.v := rfl
@[simp] theorem State.setDisplay_i (s : State) (g : Display) : (s.setDisplay g).i = s.i := rfl
@[simp] theorem State.setDisplay_pc (s : State) (g : Display) : (s.setDisplay g).pc = s.pc := rfl
@[simp] theorem State.setDisplay_stack (s : State) (g : Display) : (s.setDisplay g).stack = s.stack := rfl
@[simp] theorem State.setDisplay_dt (s : State) (g : Display) : (s.setDisplay g).dt = s.dt := rfl
@[simp] theorem State.setDisplay_st (s : State) (g : Display) : (s.setDisplay g).st = s.st := rfl
@[simp] theorem State.setDisplay_display (s : State) (g : Display) : (s.setDisplay g).display = g := rfl
@[simp] theorem State.setDisplay_key (s : State) (g : Display) : (s.setDisplay g).key = s.key := rfl
@[simp] theorem State.setDisplay_mem (s : State) (g : Display) : (s.setDisplay g).mem = s.mem := rfl
@[simp] theorem State.setDisplay_draws (s : State) (g : Display) : (s.setDisplay g).draws = s.draws := rfl
@[simp] theorem State.setDisplay_getV (s : State) (g : Display) (r : RegIx) : (s.setDisplay g).getV r = s.getV r := rfl
@[simp] theorem State.setDisplay_getKey (s : State) (g : Display) (j : KeyIx) : (s.setDisplay g).getKey j = s.getKey j := rfl
@[simp] theorem State.setDisplay_readByte (s : State) (g : Display) (c : Nat) : (s.setDisplay g).readByte c = s.readByte c := rfl

/-! ### setKey -/

@[simp] theorem State.setKey_v (s : State) (k : KeyIx) (b : Bool) : (s.setKey k b).v = s.v := rfl
@[simp] theorem State.setKey_i (s : State) (k : KeyIx) (b : Bool) : (s.setKey k b).i = s.i := rfl
@[simp] theorem State.setKey_pc (s : State) (k : KeyIx) (b : Bool) : (s.setKey k b).pc = s.pc := rfl
@[simp] theorem State.setKey_stack (s : State) (k : KeyIx) (b : Bool) : (s.setKey k b).stack = s.stack := rfl
@[simp] theorem State.setKey_dt (s : State) (k : KeyIx) (b : Bool) : (s.setKey k b).dt = s.dt := rfl
@[simp] theorem State.setKey_st (s : State) (k : KeyIx) (b : Bool) : (s.setKey k b).st = s.st := rfl
@[simp] theorem State.setKey_display (s : State) (k : KeyIx) (b : Bool) : (s.setKey k b).display = s.display := rfl
@[simp] theorem State.setKey_key (s : State) (k : KeyIx) (b : Bool) : (s.setKey k b).key = s.key.set k.val b := rfl
@[simp] theorem State.setKey_mem (s : State) (k : KeyIx) (b : Bool) : (s.setKey k b).mem = s.mem := rfl
@[simp] theorem State.setKey_draws (s : State) (k : KeyIx) (b : Bool) : (s.setKey k b).draws = s.draws := rfl
@[simp] theorem State.setKey_getV (s : State) (k : KeyIx) (b : Bool) (r : RegIx) : (s.setKey k b).getV r = s.getV r := rfl
@[simp] theorem State.setKey_readByte (s : State) (k : KeyIx) (b : Bool) (c : Nat) : (s.setKey k b).readByte c = s.readByte c := rfl

/-! ### setMem -/

@[simp] theorem State.setMem_v (s : State) (m : Memory) : (s.setMem m).v = s.v := rfl
@[simp] theorem State.setMem_i (s : State) (m : Memory) : (s.setMem m).i = s.i := rfl
@[simp] theorem State.setMem_pc (s : State) (m : Memory) : (s.setMem m).pc = s.pc := rfl
@[simp] theorem State.setMem_stack (s : State) (m : Memory) : (s.setMem m).stack = s.stack := rfl
@[simp] theorem State.setMem_dt (s : State) (m : Memory) : (s.setMem m).dt = s.dt := rfl
@[simp] theorem State.setMem_st (s : State) (m : Memory) : (s.setMem m).st = s.st := rfl
@[simp] theorem State.setMem_display (s : State) (m : Memory) : (s.setMem m).display = s.display := rfl
@[simp] theorem State.setMem_key (s : State) (m : Memory) : (s.setMem m).key = s.key := rfl
@[simp] theorem State.setMem_mem (s : State) (m : Memory) : (s.setMem m).mem = m := rfl
@[simp] theorem State.setMem_draws (s : State) (m : Memory) : (s.setMem m).draws = s.draws := rfl
@[simp] theorem State.setMem_getV (s : State) (m : Memory) (r : RegIx) : (s.setMem m).getV r = s.getV r := rfl
@[simp] theorem State.setMem_getKey (s : State) (m : Memory) (j : KeyIx) : (s.setMem m).getKey j = s.getKey j := rfl

/-! ### setDraws -/

@[simp] theorem State.setDraws_v (s : State) (k : Nat) : (s.setDraws k).v = s.v := rfl
@[simp] theorem State.setDraws_i (s : State) (k : Nat) : (s.setDraws k).i = s.i := rfl
@[simp] theorem State.setDraws_pc (s : State) (k : Nat) : (s.setDraws k).pc = s.pc := rfl
@[simp] theorem State.setDraws_stack (s : State) (k : Nat) : (s.setDraws k).stack = s.stack := rfl
@[simp] theorem State.setDraws_dt (s : State) (k : Nat) : (s.setDraws k).dt = s.dt := rfl
@[simp] theorem State.setDraws_st (s : State) (k : Nat) : (s.setDraws k).st = s.st := rfl
@[simp] theorem State.setDraws_display (s : State) (k : Nat) : (s.setDraws k).display = s.display := rfl
@[simp] theorem State.setDraws_key (s : State) (k : Nat) : (s.setDraws k).key = s.key := rfl
@[simp] theorem State.setDraws_mem (s : State) (k : Nat) : (s.setDraws k).mem = s.mem := rfl
@[simp] theorem State.setDraws_draws (s : State) (k : Nat) : (s.setDraws k).draws = k := rfl
@[simp] theorem State.setDraws_getV (s : State) (k : Nat) (r : RegIx) : (s.setDraws k).getV r = s.getV r := rfl
@[simp] theorem State.setDraws_getKey (s : State) (k : Nat) (j : KeyIx) : (s.setDraws k).getKey j = s.getKey j := rfl
@[simp] theorem State.setDraws_readByte (s : State) (k : Nat) (c : Nat) : (s.setDraws k).readByte c = s.readByte c := rfl

/-! ### storeBytes -/

@[simp] theorem State.storeBytes_v (s : State) (a : Nat) (bs : List Byte) : (s.storeBytes a bs).v = s.v := rfl
@[simp] theorem State.storeBytes_i (s : State) (a : Nat) (bs : List Byte) : (s.storeBytes a bs).i = s.i := rfl
@[simp] theorem State.storeBytes_pc (s : State) (a : Nat) (bs : List Byte) : (s.storeBytes a bs).pc = s.pc := rfl
@[simp] theorem State.storeBytes_stack (s : State) (a : Nat) (bs : List Byte) : (s.storeBytes a bs).stack = s.stack := rfl
@[simp] theorem State.storeBytes_dt (s : State) (a : Nat) (bs : List Byte) : (s.storeBytes a bs).dt = s.dt := rfl
@[simp] theorem State.storeBytes_st (s : State) (a : Nat) (bs : List Byte) : (s.storeBytes a bs).st = s.st := rfl
@[simp] theorem State.storeBytes_display (s : State) (a : Nat) (bs : List Byte) : (s.storeBytes a bs).display = s.display := rfl
@[simp] theorem State.storeBytes_key (s : State) (a : Nat) (bs : List Byte) : (s.storeBytes a bs).key = s.key := rfl
@[simp] theorem State.storeBytes_mem (s : State) (a : Nat) (bs : List Byte) : (s.storeBytes a bs).mem = s.mem.writeBytes a bs := rfl
@[simp] theorem State.storeBytes_draws (s : State) (a : Nat) (bs : List Byte) : (s.storeBytes a bs).draws = s.draws := rfl
@[simp] theorem State.storeBytes_getV (s : State) (a : Nat) (bs : List Byte) (r : RegIx) : (s.storeBytes a bs).getV r = s.getV r := rfl
@[simp] theorem State.storeBytes_getKey (s : State) (a : Nat) (bs : List Byte) (j : KeyIx) : (s.storeBytes a bs).getKey j = s.getKey j := rfl

/-! ### fallthrough -/

@[simp] theorem State.fallthrough_v (s : State) : (s.fallthrough).v = s.v := rfl
@[simp] theorem State.fallthrough_i (s : State) : (s.fallthrough).i = s.i := rfl
@[simp] theorem State.fallthrough_pc (s : State) : (s.fallthrough).pc = s.pc + 2 := rfl
@[simp] theorem State.fallthrough_stack (s : State) : (s.fallthrough).stack = s.stack := rfl
@[simp] theorem State.fallthrough_dt (s : State) : (s.fallthrough).dt = s.dt := rfl
@[simp] theorem State.fallthrough_st (s : State) : (s.fallthrough).st = s.st := rfl
@[simp] theorem State.fallthrough_display (s : State) : (s.fallthrough).display = s.display := rfl
@[simp] theorem State.fallthrough_key (s : State) : (s.fallthrough).key = s.key := rfl
@[simp] theorem State.fallthrough_mem (s : State) : (s.fallthrough).mem = s.mem := rfl
@[simp] theorem State.fallthrough_draws (s : State) : (s.fallthrough).draws = s.draws := rfl
@[simp] theorem State.fallthrough_getV (s : State) (r : RegIx) : (s.fallthrough).getV r = s.getV r := rfl
@[simp] theorem State.fallthrough_getKey (s : State) (j : KeyIx) : (s.fallthrough).getKey j = s.getKey j := rfl
@[simp] theorem State.fallthrough_readByte (s : State) (c : Nat) : (s.fallthrough).readByte c = s.readByte c := rfl

/-! ### skipIf -/

@[simp] theorem State.skipIf_v (s : State) (cond : Bool) : (s.skipIf cond).v = s.v := rfl
@[simp] theorem State.skipIf_i (s : State) (cond : Bool) : (s.skipIf cond).i = s.i := rfl
@[simp] theorem State.skipIf_pc (s : State) (cond : Bool) : (s.skipIf cond).pc = if cond then s.pc + 2 + 2 else s.pc + 2 := rfl
@[simp] theorem State.skipIf_stack (s : State) (cond : Bool) : (s.skipIf cond).stack = s.stack := rfl
@[simp] theorem State.skipIf_dt (s : State) (cond : Bool) : (s.skipIf cond).dt = s.dt := rfl
@[simp] theorem State.skipIf_st (s : State) (cond : Bool) : (s.skipIf cond).st = s.st := rfl
@[simp] theorem State.skipIf_display (s : State) (cond : Bool) : (s.skipIf cond).display = s.display := rfl
@[simp] theorem State.skipIf_key (s : State) (cond : Bool) : (s.skipIf cond).key = s.key := rfl
@[simp] theorem State.skipIf_mem (s : State) (cond : Bool) : (s.skipIf cond).mem = s.mem := rfl
@[simp] theorem State.skipIf_draws (s : State) (cond : Bool) : (s.skipIf cond).draws = s.draws := rfl
@[simp] theorem State.skipIf_getV (s : State) (cond : Bool) (r : RegIx) : (s.skipIf cond).getV r = s.getV r := rfl
@[simp] theorem State.skipIf_getKey (s : State) (cond : Bool) (j : KeyIx) : (s.skipIf cond).getKey j = s.getKey j := rfl
@[simp] theorem State.skipIf_readByte (s : State) (cond : Bool) (c : Nat) : (s.skipIf cond).readByte c = s.readByte c := rfl

/-! ### setWithFlag -/

@[simp] theorem State.setWithFlag_v (s : State) (x : RegIx) (b f : Byte) : (s.setWithFlag x b f).v = (s.v.set x.val b).set 15 f := rfl
@[simp] theorem State.setWithFlag_i (s : State) (x : RegIx) (b f : Byte) : (s.setWithFlag x b f).i = s.i := rfl
@[simp] theorem State.setWithFlag_pc (s : State) (x : RegIx) (b f : Byte) : (s.setWithFlag x b f).pc = s.pc := rfl
@[simp] theorem State.setWithFlag_stack (s : State) (x : RegIx) (b f : Byte) : (s.setWithFlag x b f).stack = s.stack := rfl
@[simp] theorem State.setWithFlag_dt (s : State) (x : RegIx) (b f : Byte) : (s.setWithFlag x b f).dt = s.dt := rfl
@[simp] theorem State.setWithFlag_st (s : State) (x : RegIx) (b f : Byte) : (s.setWithFlag x b f).st = s.st := rfl
@[simp] theorem State.setWithFlag_display (s : State) (x : RegIx) (b f : Byte) : (s.setWithFlag x b f).display = s.display := rfl
@[simp] theorem State.setWithFlag_key (s : State) (x : RegIx) (b f : Byte) : (s.setWithFlag x b f).key = s.key := rfl
@[simp] theorem State.setWithFlag_mem (s : State) (x : RegIx) (b f : Byte) : (s.setWithFlag x b f).mem = s.mem := rfl
@[simp] theorem State.setWithFlag_draws (s : State) (x : RegIx) (b f : Byte) : (s.setWithFlag x b f).draws = s.draws := rfl
@[simp] theorem State.setWithFlag_getKey (s : State) (x : RegIx) (b f : Byte) (j : KeyIx) : (s.setWithFlag x b f).getKey j = s.getKey j := rfl
@[simp] theorem State.setWithFlag_readByte (s : State) (x : RegIx) (b f : Byte) (c : Nat) : (s.setWithFlag x b f).readByte c = s.readByte c := rfl

/-! ### drawRandom -/

@[simp] theorem State.drawRandom_v (s : State) : (s.drawRandom.2).v = s.v := rfl
@[simp] theorem State.drawRandom_i (s : State) : (s.drawRandom.2).i = s.i := rfl
@[simp] theorem State.drawRandom_pc (s : State) : (s.drawRandom.2).pc = s.pc := rfl
@[simp] theorem State.drawRandom_stack (s : State) : (s.drawRandom.2).stack = s.stack := rfl
@[simp] theorem State.drawRandom_dt (s : State) : (s.drawRandom.2).dt = s.dt := rfl
@[simp] theorem State.drawRandom_st (s : State) : (s.drawRandom.2).st = s.st := rfl
@[simp] theorem State.drawRandom_display (s : State) : (s.drawRandom.2).display = s.display := rfl
@[simp] theorem State.drawRandom_key (s : State) : (s.drawRandom.2).key = s.key := rfl
@[simp] theorem State.drawRandom_mem (s : State) : (s.drawRandom.2).mem = s.mem := rfl
@[simp] theorem State.drawRandom_draws (s : State) : (s.drawRandom.2).draws = s.draws + 1 := rfl
@[simp] theorem State.drawRandom_getV (s : State) (r : RegIx) : (s.drawRandom.2).getV r = s.getV r := rfl
@[simp] theorem State.drawRandom_getKey (s : State) (j : KeyIx) : (s.drawRandom.2).getKey j = s.getKey j := rfl
@[simp] theorem State.drawRandom_readByte (s : State) (c : Nat) : (s.drawRandom.2).readByte c = s.readByte c := rfl

/-! ### Registers and keys -/

/-- `V[r]` after `V[x] <- b`. -/
@[simp] theorem State.setV_getV (s : State) (x : RegIx) (b : Byte) (r : RegIx) :
    (s.setV x b).getV r = if r = x then b else s.getV r := by
  simp only [State.getV, State.setV, Vector.getElem_set, Fin.ext_iff, eq_comm]

/-- `V[r]` after a result and a flag are written: the flag is last (R90). -/
@[simp] theorem State.setWithFlag_getV (s : State) (x : RegIx) (b f : Byte) (r : RegIx) :
    (s.setWithFlag x b f).getV r = if r = VF then f else if r = x then b else s.getV r := by
  simp only [State.setWithFlag, State.setV_getV]

@[simp] theorem State.setRegs_getV (s : State) (v : Vector Byte 16) (r : RegIx) :
    (s.setRegs v).getV r = v[r.val] := rfl

/-- `key[j]` after `key[k] <- b`. -/
@[simp] theorem State.setKey_getKey (s : State) (k : KeyIx) (b : Bool) (j : KeyIx) :
    (s.setKey k b).getKey j = if j = k then b else s.getKey j := by
  simp only [State.getKey, State.setKey, Vector.getElem_set, Fin.ext_iff, eq_comm]

/-- Two register files that agree on every register are equal. -/
theorem State.v_ext {s t : State} (h : ∀ r, s.getV r = t.getV r) : s.v = t.v :=
  Vector.ext fun k hk => h ⟨k, hk⟩

/-- Two keypads that agree on every key are equal. -/
theorem State.key_ext {s t : State} (h : ∀ k, s.getKey k = t.getKey k) : s.key = t.key :=
  Vector.ext fun k hk => h ⟨k, hk⟩

end Sys2Proof.Machine
end

