-- ==== Sys2Proof/Laws/Display.lean ====
section
/-! SUPPORT. The framebuffer's operations, pixel by pixel. -/

namespace Sys2Proof.Machine

/-- Two displays that agree on every pixel are equal. -/
theorem Display.ext {g h : Display} (e : ∀ x y, g.pixel x y = h.pixel x y) : g = h :=
  Vector.ext fun y hy => Vector.ext fun x hx => e ⟨x, hx⟩ ⟨y, hy⟩

/-- One pixel toggled, every other as before. -/
theorem Display.pixel_toggle (g : Display) (x : Fin 64) (y : Fin 32) (px : Fin 64) (py : Fin 32) :
    (g.toggle x y).pixel px py = if px = x ∧ py = y then !g.pixel px py else g.pixel px py := by
  by_cases hy : y = py
  · subst hy
    by_cases hx : x = px
    · subst hx; simp [Display.toggle, Display.pixel]
    · have hx' : x.val ≠ px.val := fun e => hx (Fin.ext e)
      simp [Display.toggle, Display.pixel, hx', Ne.symm hx]
  · have hy' : y.val ≠ py.val := fun e => hy (Fin.ext e)
    simp [Display.toggle, Display.pixel, hy', Ne.symm hy]

@[simp] theorem Display.pixel_clear (x : Fin 64) (y : Fin 32) : Display.clear.pixel x y = false := by
  simp [Display.clear, Display.pixel]

theorem drawArgsValid_eq_true_iff (vx vy : Byte) (n : Nibble) :
    drawArgsValid vx vy n = true ↔ vx.toNat < 64 ∧ vy.toNat < 32 ∧ n.toNat ≠ 0 := by
  have h : n ≠ 0 ↔ n.toNat ≠ 0 := not_congr ⟨fun e => e ▸ rfl, fun e => BitVec.eq_of_toNat_eq e⟩
  rw [← h]
  simp [drawArgsValid, and_assoc]

end Sys2Proof.Machine
end

