-- ==== Sys2Proof/Laws/Memory.lean ====
section
/-! SUPPORT. The laws of memory: a read after a write, and that every memory operation keeps the canonical form. -/

namespace Sys2Proof.Machine

@[simp] theorem Memory.read_nil (a : Nat) : Memory.read [] a = resetByte a := rfl

theorem Memory.erase_cons (c : Host.Cell) (rest : Memory) (a : Nat) :
    Memory.erase (c :: rest) a = if c.1 = a then Memory.erase rest a else c :: Memory.erase rest a := by
  by_cases h : c.1 = a <;> simp [Memory.erase, h]

theorem Memory.read_erase (m : Memory) (a b : Nat) :
    (m.erase a).read b = if b = a then resetByte b else m.read b := by
  induction m with
  | nil => simp [Memory.erase]
  | cons c rest ih =>
    rw [Memory.erase_cons]
    by_cases hc : c.1 = a
    · rw [if_pos hc, ih, Memory.read]
      by_cases hb : b = a
      · rw [if_pos hb, if_pos hb]
      · rw [if_neg hb, if_neg hb, if_neg (by omega)]
    · rw [if_neg hc, Memory.read, Memory.read, ih]
      by_cases hcb : c.1 = b
      · rw [if_pos hcb, if_neg (by omega), if_pos hcb]
      · rw [if_neg hcb, if_neg hcb]

theorem Memory.read_insert (m : Memory) (a : Nat) (v : Byte) (b : Nat) :
    (Memory.insert a v m).read b = if b = a then v else m.read b := by
  induction m with
  | nil => simp [Memory.insert, Memory.read, eq_comm]
  | cons c rest ih =>
    by_cases hc : c.1 < a
    · by_cases hb : b = a
      · subst hb; simp [Memory.insert, Memory.read, hc, ih, Nat.ne_of_lt hc]
      · simp [Memory.insert, Memory.read, hc, ih, hb]
    · simp [Memory.insert, Memory.read, hc, eq_comm]

/-- A read after a write gives the byte written at that address, and leaves every other address alone (R44). -/
theorem Memory.read_write (m : Memory) (a : Nat) (v : Byte) (b : Nat) :
    (m.write a v).read b = if b = a then v else m.read b := by
  unfold Memory.write
  split <;> by_cases hb : b = a <;> simp_all [Memory.read_erase, Memory.read_insert]

/-- A read after bytes are stored at `a`, `a + 1`, … -/
theorem Memory.read_writeBytes (m : Memory) (a : Nat) (bs : List Byte) (b : Nat) :
    (m.writeBytes a bs).read b = if a ≤ b then bs.getD (b - a) (m.read b) else m.read b := by
  induction bs generalizing m a with
  | nil => simp [Memory.writeBytes]
  | cons v rest ih =>
    rw [Memory.writeBytes, ih, Memory.read_write]
    rcases Nat.lt_trichotomy b a with h | h | h
    · rw [if_neg (by omega), if_neg (by omega), if_neg (by omega)]
    · subst h; simp
    · rw [if_pos (by omega), if_neg (by omega), if_pos (by omega), show b - a = b - (a + 1) + 1 by omega]
      simp

theorem Memory.wf_erase {m : Memory} (h : m.wf) (a : Nat) : (m.erase a).wf :=
  ⟨h.1.filter _, fun c hc => h.2 c (List.mem_of_mem_filter hc)⟩

theorem Memory.mem_insert {m : Memory} {a : Nat} {v : Byte} {c : Host.Cell} :
    c ∈ Memory.insert a v m ↔ c = (a, v) ∨ c ∈ m := by
  induction m with
  | nil => simp [Memory.insert]
  | cons d rest ih => by_cases hd : d.1 < a <;> simp [Memory.insert, hd, ih, or_left_comm]

theorem Memory.pairwise_insert {m : Memory} {a : Nat} {v : Byte} (h : m.Pairwise fun c d => c.1 < d.1)
    (ha : ∀ c ∈ m, c.1 ≠ a) : (Memory.insert a v m).Pairwise fun c d => c.1 < d.1 := by
  induction m with
  | nil => simp [Memory.insert]
  | cons d rest ih =>
    obtain ⟨hd, hrest⟩ := List.pairwise_cons.1 h
    have hne : d.1 ≠ a := ha d (by simp)
    by_cases hlt : d.1 < a
    · rw [Memory.insert, if_pos hlt]
      refine List.pairwise_cons.2 ⟨fun c hc => ?_, ih hrest fun c hc => ha c (by simp [hc])⟩
      rcases Memory.mem_insert.1 hc with rfl | hc
      · exact hlt
      · exact hd c hc
    · rw [Memory.insert, if_neg hlt]
      refine List.pairwise_cons.2 ⟨fun c hc => ?_, h⟩
      rcases List.mem_cons.1 hc with rfl | hc
      · simp only; omega
      · have := hd c hc; simp only; omega

/-- A write to an address of memory keeps the canonical form. -/
theorem Memory.wf_write {m : Memory} (h : m.wf) {a : Nat} (ha : a < Config.memSize) (v : Byte) :
    (m.write a v).wf := by
  unfold Memory.write
  split
  · exact Memory.wf_erase h a
  · rename_i hv
    have he := Memory.wf_erase h a
    refine ⟨Memory.pairwise_insert he.1 fun c hc => ?_, fun c hc => ?_⟩
    · have := (List.mem_filter.1 hc).2; simpa using this
    · rcases Memory.mem_insert.1 hc with rfl | hc
      · exact ⟨ha, hv⟩
      · exact he.2 c hc

/-- Bytes stored inside memory keep the canonical form. -/
theorem Memory.wf_writeBytes {m : Memory} (h : m.wf) {a : Nat} {bs : List Byte} (ha : a + bs.length ≤ Config.memSize) :
    (m.writeBytes a bs).wf := by
  induction bs generalizing m a with
  | nil => exact h
  | cons v rest ih =>
    simp only [List.length_cons] at ha
    exact ih (Memory.wf_write h (by omega) v) (by omega)

@[simp] theorem Memory.length_readBytes (m : Memory) (a n : Nat) : (m.readBytes a n).length = n := by
  induction n generalizing a with
  | zero => rfl
  | succ n ih => simp [Memory.readBytes, ih]

@[simp] theorem Memory.getElem_readBytes (m : Memory) (a n k : Nat) (h : k < (m.readBytes a n).length) :
    (m.readBytes a n)[k] = m.read (a + k) := by
  induction n generalizing a k with
  | zero => simp [Memory.readBytes] at h
  | succ n ih =>
    cases k with
    | zero => rfl
    | succ k =>
      simp only [Memory.readBytes, List.getElem_cons_succ]
      rw [ih]; congr 1; omega

theorem State.readByte_setMem_write (s : State) (a : Nat) (v : Byte) (b : Nat) :
    (s.setMem (s.mem.write a v)).readByte b = if b = a then v else s.readByte b :=
  Memory.read_write s.mem a v b

theorem State.readByte_storeBytes (s : State) (a : Nat) (bs : List Byte) (b : Nat) :
    (s.storeBytes a bs).readByte b = if a ≤ b then bs.getD (b - a) (s.readByte b) else s.readByte b :=
  Memory.read_writeBytes s.mem a bs b

/-- A stored byte reads back. -/
theorem State.readByte_storeBytes_of_lt (s : State) (a : Nat) (bs : List Byte) (k : Nat) (h : k < bs.length) :
    (s.storeBytes a bs).readByte (a + k) = bs[k] := by
  simp [State.readByte_storeBytes, h]

/-- A byte outside the stored ones reads as before. -/
theorem State.readByte_storeBytes_of_outside (s : State) (a : Nat) (bs : List Byte) (b : Nat)
    (h : b < a ∨ a + bs.length ≤ b) : (s.storeBytes a bs).readByte b = s.readByte b := by
  rw [State.readByte_storeBytes]
  split
  · rw [List.getD_eq_default _ _ (by omega)]
  · rfl

end Sys2Proof.Machine
end

