-- ==== Sys2Proof/Laws/Ops.lean ====
section
/-! SUPPORT. What each shared operation can do, once: later proofs cite these and do not unfold the operations. -/

namespace Sys2Proof.Machine

/-! ### The range check -/

theorem checkRange_eq_none_iff {base count : Nat} :
    checkRange base count = none ↔ base + count ≤ 0x1000 := by
  unfold checkRange
  split <;> simp <;> omega

theorem checkRange_eq_some_iff {base count : Nat} (f : Fault) :
    checkRange base count = some f ↔ base + count > 0x1000 ∧ f = .memoryOutOfBounds (max base 0x1000) := by
  unfold checkRange
  split
  · simp only [Option.some.injEq]
    exact ⟨fun e => ⟨by omega, e.symm⟩, fun e => e.2.symm⟩
  · simp only [reduceCtorEq, false_iff, not_and]
    omega

/-! ### The stack -/

/-- A push that succeeds found room and appended. -/
theorem State.push_eq_ok {s t : State} {a : Word} (h : s.push a = .ok t) :
    s.stack.length < Config.stackCapacity ∧ t = s.setStack (s.stack ++ [a]) := by
  unfold State.push at h
  split at h
  · simp at h
  · simp only [Except.ok.injEq] at h
    exact ⟨by omega, h.symm⟩

/-- A push that fails found the stack full. -/
theorem State.push_eq_error {s : State} {a : Word} {f : Fault} (h : s.push a = .error f) :
    s.stack.length ≥ Config.stackCapacity ∧ f = .stackOverflow s.pc := by
  unfold State.push at h
  split at h
  · simp only [Except.error.injEq] at h
    exact ⟨by omega, h.symm⟩
  · simp at h

@[simp] theorem State.pop_of_nil {s : State} (h : s.stack = []) : s.pop = .error (.stackUnderflow s.pc) := by
  simp [State.pop, h]

@[simp] theorem State.pop_of_concat {s : State} {rest : List Word} {a : Word} (h : s.stack = rest ++ [a]) :
    s.pop = .ok (a, s.setStack rest) := by
  simp [State.pop, h]

/-- A pop that succeeds took the last value off. -/
theorem State.pop_eq_ok {s t : State} {a : Word} (h : s.pop = .ok (a, t)) :
    ∃ rest, s.stack = rest ++ [a] ∧ t = s.setStack rest := by
  rcases List.eq_nil_or_concat s.stack with hn | ⟨rest, b, hb⟩
  · simp [State.pop_of_nil hn] at h
  · rw [List.concat_eq_append] at hb
    rw [State.pop_of_concat hb] at h
    simp only [Except.ok.injEq, Prod.mk.injEq] at h
    obtain ⟨rfl, rfl⟩ := h
    exact ⟨rest, hb, rfl⟩

/-- A pop that fails found the stack empty. -/
theorem State.pop_eq_error {s : State} {f : Fault} (h : s.pop = .error f) :
    s.stack = [] ∧ f = .stackUnderflow s.pc := by
  rcases List.eq_nil_or_concat s.stack with hn | ⟨rest, b, hb⟩
  · rw [State.pop_of_nil hn] at h
    simp only [Except.error.injEq] at h
    exact ⟨hn, h.symm⟩
  · rw [List.concat_eq_append] at hb
    simp [State.pop_of_concat hb] at h

/-! ### Fetch and step -/

theorem State.fetch_of_gt {s : State} (h : s.pc.toNat > 0xFFE) :
    s.fetch = .error (.memoryOutOfBounds s.pc.toNat) := by
  simp [State.fetch, h]

theorem State.fetch_of_le {s : State} (h : s.pc.toNat ≤ 0xFFE) :
    s.fetch = .ok (wordOfBytes (s.readByte s.pc.toNat) (s.readByte (s.pc.toNat + 1))) := by
  rw [State.fetch, if_neg (by omega)]

/-- A fetch that succeeds is inside memory. -/
theorem State.fetch_eq_ok {s : State} {w : Word} (h : s.fetch = .ok w) :
    s.pc.toNat ≤ 0xFFE ∧ w = wordOfBytes (s.readByte s.pc.toNat) (s.readByte (s.pc.toNat + 1)) := by
  by_cases hp : s.pc.toNat > 0xFFE
  · simp [State.fetch_of_gt hp] at h
  · rw [State.fetch_of_le (by omega)] at h
    simp only [Except.ok.injEq] at h
    exact ⟨by omega, h.symm⟩

theorem State.fetchInstr_eq_ok_iff {s : State} {i : Instr} :
    s.fetchInstr = .ok i ↔ ∃ w, s.fetch = .ok w ∧ decodeWord w = some i := by
  unfold State.fetchInstr
  split
  · rename_i f hf; simp [hf]
  · rename_i w hw
    split <;> simp_all

theorem State.fetchInstr_eq_error_iff {s : State} {f : Fault} :
    s.fetchInstr = .error f ↔
      s.fetch = .error f ∨ ∃ w, s.fetch = .ok w ∧ decodeWord w = none ∧ f = .unknownOpcode w := by
  unfold State.fetchInstr
  rcases hf : s.fetch with g | w
  · simp
  · rcases hd : decodeWord w with _ | i
    · simp [hd, eq_comm]
    · simp [hd]

theorem step_of_fetchInstr {s : State} {i : Instr} (h : s.fetchInstr = .ok i) : step s = exec i s := by
  simp [step, h]

/-- A step that ends `Ok` fetched an instruction and executed it. -/
theorem step_eq_next {s t : State} (h : step s = .next t) :
    ∃ i, s.fetchInstr = .ok i ∧ s.pc.toNat ≤ 0xFFE ∧ exec i s = .next t := by
  unfold step at h
  split at h
  · simp [raise] at h
  · rename_i i hi
    obtain ⟨w, hw, -⟩ := State.fetchInstr_eq_ok_iff.1 hi
    exact ⟨i, hi, (State.fetch_eq_ok hw).1, h⟩

/-- Fetch reads nothing but `pc` and memory. -/
theorem State.fetchInstr_congr {s t : State} (hp : t.pc = s.pc) (hm : t.mem = s.mem) : t.fetchInstr = s.fetchInstr := by
  simp only [State.fetchInstr, State.fetch, State.readByte, hp, hm]

/-! ### Operands -/

@[simp] theorem toNat_zextAddr (nnn : Addr12) : (zextAddr nnn).toNat = nnn.toNat := by
  have := nnn.isLt
  simp only [zextAddr, BitVec.toNat_setWidth]
  omega

@[simp] theorem toNat_zextByte (b : Byte) : (zextByte b).toNat = b.toNat := by
  have := b.isLt
  simp only [zextByte, BitVec.toNat_setWidth]
  omega

theorem toNat_and_0F (b : Byte) : (b &&& 0x0F).toNat = b.toNat % 16 := by
  rw [BitVec.toNat_and]
  exact Nat.and_two_pow_sub_one_eq_mod b.toNat 4

@[simp] theorem val_keyOf (b : Byte) : (keyOf b).val = b.toNat % 16 := by
  rw [keyOf, toNat_and_0F, Fin.val_ofNat, Nat.mod_mod]

theorem State.leastPressed_eq_none_iff (s : State) : s.leastPressed = none ↔ ∀ k, s.getKey k = false := by
  simp [State.leastPressed]

theorem State.leastPressed_eq_some_iff (s : State) (k : KeyIx) :
    s.leastPressed = some k ↔ s.getKey k = true ∧ ∀ j, j < k → s.getKey j = false := by
  unfold State.leastPressed
  rw [List.find?_eq_some_iff_getElem]
  constructor
  · rintro ⟨hk, n, hn, hget, hlt⟩
    have hnk : n = k.val := by simpa [Fin.ext_iff] using hget
    refine ⟨hk, fun j hj => ?_⟩
    have := hlt j.val (by rw [hnk]; exact hj)
    simpa using this
  · rintro ⟨hk, hlt⟩
    refine ⟨hk, k.val, by simp, by simp, fun j hj => ?_⟩
    have := hlt ⟨j, by omega⟩ hj
    simpa using this

@[simp] theorem State.length_regsUpTo (s : State) (x : RegIx) : (s.regsUpTo x).length = x.val + 1 := by
  simp only [State.regsUpTo, List.length_take, Vector.length_toList]
  omega

@[simp] theorem State.getElem_regsUpTo (s : State) (x : RegIx) (k : Nat) (h : k < (s.regsUpTo x).length) :
    (s.regsUpTo x)[k] = s.v[k]'(by have := s.length_regsUpTo x; omega) := by
  simp [State.regsUpTo]

@[simp] theorem State.getElem_regsLoaded (s : State) (a : Nat) (x : RegIx) (k : Nat) (h : k < 16) :
    (s.regsLoaded a x)[k] = if k ≤ x.val then s.readByte (a + k) else s.v[k] := by
  rw [State.regsLoaded, Vector.getElem_ofFn]

/-! ### Flags -/

theorem toNat_flagOf (b : Bool) : (flagOf b).toNat = if b then 1 else 0 := by cases b <;> rfl

theorem flagOf_eq_one_iff (b : Bool) : flagOf b = 1 ↔ b = true := by cases b <;> decide

end Sys2Proof.Machine
end

