-- ==== Sys2Proof/Laws/PerInstr.lean ====
section
/-! SUPPORT. Families of statements about every instruction, one lemma per constructor.

`TableRow`: the word the encoder gives an instruction is one of the words of the instruction's row of opcode_table.json. -/

namespace Sys2Proof.Laws.TableRow

/-- The row of opcode_table.json with the instruction's mnemonic covers the instruction's word. -/
def Statement (i : Instr) : Prop :=
  ∃ r ∈ opcodeTable, r.mnemonic = i.mnemonic ∧ r.covers (encode i) = true

/-- A row with the mask 0xF000 covers the words of its leading nibble. -/
theorem covers_nnn (m : String) (f : Nibble) (nnn : Addr12) :
    (OpcodeRow.mk m (wordNNN f 0) 0xF000).covers (wordNNN f nnn) = true :=
  beq_iff_eq.2 (wordNNN_and_F000 f nnn)

/-- A row with the mask 0xF0FF covers the words of its leading nibble and trailing byte. -/
theorem covers_xnn (m : String) (f x : Nibble) (nn : Byte) :
    (OpcodeRow.mk m (wordXNN f 0 nn) 0xF0FF).covers (wordXNN f x nn) = true :=
  beq_iff_eq.2 (wordXNN_and_F0FF f x nn)

/-- A row with the mask 0xF00F covers the words of its leading and trailing nibble. -/
theorem covers_xyn (m : String) (f x y n : Nibble) :
    (OpcodeRow.mk m (wordXYN f 0 0 n) 0xF00F).covers (wordXYN f x y n) = true :=
  beq_iff_eq.2 (wordXYN_and_F00F f x y n)

theorem cls (k : Nibble) : Statement (.cls k) :=
  ⟨⟨"CLS", 0x00E0, 0xF0FF⟩, by decide, rfl, covers_xnn _ _ _ _⟩

theorem ret (k : Nibble) : Statement (.ret k) :=
  ⟨⟨"RET", 0x00EE, 0xF0FF⟩, by decide, rfl, covers_xnn _ _ _ _⟩

theorem jp (nnn : Addr12) : Statement (.jp nnn) :=
  ⟨⟨"JP_nnn", 0x1000, 0xF000⟩, by decide, rfl, covers_nnn _ _ _⟩

theorem call (nnn : Addr12) : Statement (.call nnn) :=
  ⟨⟨"CALL_nnn", 0x2000, 0xF000⟩, by decide, rfl, covers_nnn _ _ _⟩

theorem seImm (x : RegIx) (nn : Byte) : Statement (.seImm x nn) :=
  ⟨⟨"SE_Vx__nn", 0x3000, 0xF000⟩, by decide, rfl, covers_nnn _ _ (nibbleOfReg x ++ nn : BitVec 12)⟩

theorem sneImm (x : RegIx) (nn : Byte) : Statement (.sneImm x nn) :=
  ⟨⟨"SNE_Vx__nn", 0x4000, 0xF000⟩, by decide, rfl, covers_nnn _ _ (nibbleOfReg x ++ nn : BitVec 12)⟩

theorem seReg (x y : RegIx) (k : Nibble) : Statement (.seReg x y k) :=
  ⟨⟨"SE_Vx__Vy", 0x5000, 0xF000⟩, by decide, rfl, covers_nnn _ _ (nibbleOfReg x ++ (nibbleOfReg y ++ k : BitVec 8) : BitVec 12)⟩

theorem ldImm (x : RegIx) (nn : Byte) : Statement (.ldImm x nn) :=
  ⟨⟨"LD_Vx__nn", 0x6000, 0xF000⟩, by decide, rfl, covers_nnn _ _ (nibbleOfReg x ++ nn : BitVec 12)⟩

theorem addImm (x : RegIx) (nn : Byte) : Statement (.addImm x nn) :=
  ⟨⟨"ADD_Vx__nn", 0x7000, 0xF000⟩, by decide, rfl, covers_nnn _ _ (nibbleOfReg x ++ nn : BitVec 12)⟩

theorem ldReg (x y : RegIx) : Statement (.ldReg x y) :=
  ⟨⟨"LD_Vx__Vy", 0x8000, 0xF00F⟩, by decide, rfl, covers_xyn _ _ _ _ _⟩

theorem orReg (x y : RegIx) : Statement (.orReg x y) :=
  ⟨⟨"OR_Vx__Vy", 0x8001, 0xF00F⟩, by decide, rfl, covers_xyn _ _ _ _ _⟩

theorem andReg (x y : RegIx) : Statement (.andReg x y) :=
  ⟨⟨"AND_Vx__Vy", 0x8002, 0xF00F⟩, by decide, rfl, covers_xyn _ _ _ _ _⟩

theorem xorReg (x y : RegIx) : Statement (.xorReg x y) :=
  ⟨⟨"XOR_Vx__Vy", 0x8003, 0xF00F⟩, by decide, rfl, covers_xyn _ _ _ _ _⟩

theorem addReg (x y : RegIx) : Statement (.addReg x y) :=
  ⟨⟨"ADD_Vx__Vy", 0x8004, 0xF00F⟩, by decide, rfl, covers_xyn _ _ _ _ _⟩

theorem subReg (x y : RegIx) : Statement (.subReg x y) :=
  ⟨⟨"SUB_Vx__Vy", 0x8005, 0xF00F⟩, by decide, rfl, covers_xyn _ _ _ _ _⟩

theorem shr (x y : RegIx) : Statement (.shr x y) :=
  ⟨⟨"SHR_Vx", 0x8006, 0xF00F⟩, by decide, rfl, covers_xyn _ _ _ _ _⟩

theorem subnReg (x y : RegIx) : Statement (.subnReg x y) :=
  ⟨⟨"SUBN_Vx__Vy", 0x8007, 0xF00F⟩, by decide, rfl, covers_xyn _ _ _ _ _⟩

theorem shl (x y : RegIx) : Statement (.shl x y) :=
  ⟨⟨"SHL_Vx", 0x800E, 0xF00F⟩, by decide, rfl, covers_xyn _ _ _ _ _⟩

theorem sneReg (x y : RegIx) (k : Nibble) : Statement (.sneReg x y k) :=
  ⟨⟨"SNE_Vx__Vy", 0x9000, 0xF000⟩, by decide, rfl, covers_nnn _ _ (nibbleOfReg x ++ (nibbleOfReg y ++ k : BitVec 8) : BitVec 12)⟩

theorem ldI (nnn : Addr12) : Statement (.ldI nnn) :=
  ⟨⟨"LD_I__nnn", 0xA000, 0xF000⟩, by decide, rfl, covers_nnn _ _ _⟩

theorem jpV0 (nnn : Addr12) : Statement (.jpV0 nnn) :=
  ⟨⟨"JP_V0__nnn", 0xB000, 0xF000⟩, by decide, rfl, covers_nnn _ _ _⟩

theorem rnd (x : RegIx) (nn : Byte) : Statement (.rnd x nn) :=
  ⟨⟨"RND_Vx__nn", 0xC000, 0xF000⟩, by decide, rfl, covers_nnn _ _ (nibbleOfReg x ++ nn : BitVec 12)⟩

theorem drw (x y : RegIx) (k : Nibble) : Statement (.drw x y k) :=
  ⟨⟨"DRW_Vx__Vy__n", 0xD000, 0xF000⟩, by decide, rfl, covers_nnn _ _ (nibbleOfReg x ++ (nibbleOfReg y ++ k : BitVec 8) : BitVec 12)⟩

theorem skp (x : RegIx) : Statement (.skp x) :=
  ⟨⟨"SKP_Vx", 0xE09E, 0xF0FF⟩, by decide, rfl, covers_xnn _ _ _ _⟩

theorem sknp (x : RegIx) : Statement (.sknp x) :=
  ⟨⟨"SKNP_Vx", 0xE0A1, 0xF0FF⟩, by decide, rfl, covers_xnn _ _ _ _⟩

theorem ldVxDt (x : RegIx) : Statement (.ldVxDt x) :=
  ⟨⟨"LD_Vx__DT", 0xF007, 0xF0FF⟩, by decide, rfl, covers_xnn _ _ _ _⟩

theorem ldVxK (x : RegIx) : Statement (.ldVxK x) :=
  ⟨⟨"LD_Vx__K", 0xF00A, 0xF0FF⟩, by decide, rfl, covers_xnn _ _ _ _⟩

theorem ldDtVx (x : RegIx) : Statement (.ldDtVx x) :=
  ⟨⟨"LD_DT__Vx", 0xF015, 0xF0FF⟩, by decide, rfl, covers_xnn _ _ _ _⟩

theorem ldStVx (x : RegIx) : Statement (.ldStVx x) :=
  ⟨⟨"LD_ST__Vx", 0xF018, 0xF0FF⟩, by decide, rfl, covers_xnn _ _ _ _⟩

theorem addIVx (x : RegIx) : Statement (.addIVx x) :=
  ⟨⟨"ADD_I__Vx", 0xF01E, 0xF0FF⟩, by decide, rfl, covers_xnn _ _ _ _⟩

theorem ldFVx (x : RegIx) : Statement (.ldFVx x) :=
  ⟨⟨"LD_F__Vx", 0xF029, 0xF0FF⟩, by decide, rfl, covers_xnn _ _ _ _⟩

theorem ldBVx (x : RegIx) : Statement (.ldBVx x) :=
  ⟨⟨"LD_B__Vx", 0xF033, 0xF0FF⟩, by decide, rfl, covers_xnn _ _ _ _⟩

theorem ldMemVx (x : RegIx) : Statement (.ldMemVx x) :=
  ⟨⟨"LD__I___Vx", 0xF055, 0xF0FF⟩, by decide, rfl, covers_xnn _ _ _ _⟩

theorem ldVxMem (x : RegIx) : Statement (.ldVxMem x) :=
  ⟨⟨"LD_Vx___I", 0xF065, 0xF0FF⟩, by decide, rfl, covers_xnn _ _ _ _⟩

end Sys2Proof.Laws.TableRow
end

