-- ==== Sys2Proof/Laws/Transactions.lean ====
section
/-! SUPPORT. What `load` and the transactions can do, said once: later proofs cite these and unfold neither. -/

namespace Sys2Proof.Machine

/-! ### `load` -/

/-- A ROM that fits loads (R165). -/
theorem load_of_le {draws : Nat} {rom : List Byte} (h : rom.length ≤ Config.maxRom) :
    load draws rom = .next ((State.reset.setDraws draws).storeBytes Config.programStart rom) :=
  if_neg (Nat.not_lt.mpr h)

/-- A ROM that does not fit raises the error (R167). -/
theorem load_of_gt {draws : Nat} {rom : List Byte} (h : rom.length > Config.maxRom) :
    load draws rom = .fault (.romTooLarge rom.length) :=
  if_pos h

theorem transactLoad_of_le {draws : Nat} {rom : List Byte} (h : rom.length ≤ Config.maxRom) :
    transactLoad draws rom = (.running ((State.reset.setDraws draws).storeBytes Config.programStart rom), .ok) := by
  rw [transactLoad, load_of_le h]

theorem transactLoad_of_gt {draws : Nat} {rom : List Byte} (h : rom.length > Config.maxRom) :
    transactLoad draws rom = (.empty draws, .err (.romTooLarge rom.length)) := by
  rw [transactLoad, load_of_gt h]

/-- `load` keeps the position of the random oracle, whether the ROM fits or not. -/
@[simp] theorem transactLoad_draws (draws : Nat) (rom : List Byte) : (transactLoad draws rom).1.draws = draws := by
  obtain h | h := Nat.lt_or_ge Config.maxRom rom.length
  · rw [transactLoad_of_gt h]; rfl
  · rw [transactLoad_of_le h]; rfl

/-! ### The bench -/

@[simp] theorem Bench.empty_draws (draws : Nat) : (Bench.empty draws).draws = draws := rfl
@[simp] theorem Bench.running_draws (s : State) : (Bench.running s).draws = s.draws := rfl

/-! ### Transactions -/

@[simp] theorem transact_load (b : Bench) (rom : List Byte) : transact b (.load rom) = transactLoad b.draws rom := by
  cases b <;> rfl

@[simp] theorem transact_tick (s : State) : transact (.running s) .tick = (.running (tick s), .ok) := rfl

@[simp] theorem transact_setKey (s : State) (k : KeyIx) (v : Bool) :
    transact (.running s) (.setKey k v) = (.running (s.setKey k v), .ok) := rfl

@[simp] theorem transact_readFramebuffer (s : State) :
    transact (.running s) .readFramebuffer = (.running s, .framebuffer s.display) := rfl

@[simp] theorem transact_soundActive (s : State) :
    transact (.running s) .soundActive = (.running s, .sound (soundActive s)) := rfl

@[simp] theorem transact_snapshot (s : State) : transact (.running s) .snapshot = (.running s, .state s) := rfl

theorem transact_step_of_next {s t : State} (h : step s = .next t) :
    transact (.running s) .step = (.running t, .ok) := by
  simp only [transact, transactOn, transactStep, h]

theorem transact_step_of_fault {s : State} {f : Fault} (h : step s = .fault f) :
    transact (.running s) .step = (.running s, .err f) := by
  simp only [transact, transactOn, transactStep, h]

/-- Where there is no core, whatever is not a `load` changes nothing. -/
theorem transact_empty {draws : Nat} {t : Transaction} (h : ∀ rom, t ≠ .load rom) :
    transact (.empty draws) t = (.empty draws, .noCore) := by
  cases t <;> first | rfl | exact absurd rfl (h _)

/-! ### Sessions -/

@[simp] theorem session_nil (b : Bench) : session b [] = (b, []) := rfl

@[simp] theorem session_cons (b : Bench) (t : Transaction) (ts : List Transaction) :
    session b (t :: ts) = ((session (transact b t).1 ts).1, (transact b t).2 :: (session (transact b t).1 ts).2) := rfl

end Sys2Proof.Machine
end

