-- ==== Sys2Proof/Tests/Slice0.lean ====
section
/-! SUPPORT. Tests: ill-formed instructions, decoding of words written out from the opcode map (30_encoding.md rule R62), one-step
tests with the values of 95_test_vectors.md (each names its vector), and a witness for each obligation that has hypotheses. -/

namespace Sys2Proof.Tests

open Sys2Proof.Machine

/-! ## Helpers -/

/-- The reset state with some registers set and `pc` moved. -/
def start (pc : Word) (regs : List (RegIx × Byte)) : State :=
  (regs.foldl (fun s p => s.setV p.1 p.2) State.reset).setPc pc

/-- The reset state with some registers set and an index. -/
def startAt (i : Word) (regs : List (RegIx × Byte)) : State := (start 0x200 regs).setI i

/-- Whether one step on a word placed at `pc` ends `Ok` in a state with a property. -/
def okOn (s : State) (w : Word) (p : State → Bool) : Bool :=
  match step (s.placeWord w) with
  | .next t => p t
  | _ => false

/-- Whether one step on a word placed at `pc` ends with an error. -/
def errOn (s : State) (w : Word) (f : Fault) : Bool :=
  match step (s.placeWord w) with
  | .fault g => g == f
  | _ => false

/-! ## Ill-formed instructions: a strict core refuses them (R63, R64) -/

theorem test_wf_cls : (Instr.cls 5).wellFormedWith true = false := by decide
theorem test_wf_ret : (Instr.ret 5).wellFormedWith true = false := by decide
theorem test_wf_seReg : (Instr.seReg 1 2 1).wellFormedWith true = false := by decide
theorem test_wf_sneReg : (Instr.sneReg 1 2 15).wellFormedWith true = false := by decide
theorem test_wf_canonical : (Instr.cls 0).wellFormedWith true = true ∧ (Instr.shr 1 2).wellFormedWith true = true := by decide

/-! ## Decoding: words from R62, leading nibble first -/

theorem test_decode_family0 :
    decodeWord 0b0000_0000_1110_0000 = some (.cls 0) ∧ decodeWord 0b0000_0000_1110_1110 = some (.ret 0) ∧
    decodeWord 0b0000_0111_1110_0000 = some (.cls 7) := by decide

theorem test_decode_jumps :
    decodeWord 0b0001_0010_0000_0001 = some (.jp 0x201) ∧ decodeWord 0b0010_1010_1011_1100 = some (.call 0xABC) ∧
    decodeWord 0b1011_1111_1111_1110 = some (.jpV0 0xFFE) := by decide

theorem test_decode_skips :
    decodeWord 0b0011_0011_0100_0010 = some (.seImm 3 0x42) ∧ decodeWord 0b0100_0011_0100_0011 = some (.sneImm 3 0x43) ∧
    decodeWord 0b0101_0001_0010_0000 = some (.seReg 1 2 0) ∧ decodeWord 0b0101_0001_0010_0001 = some (.seReg 1 2 1) ∧
    decodeWord 0b1001_0001_0010_0000 = some (.sneReg 1 2 0) := by decide

theorem test_decode_immediates :
    decodeWord 0b0110_0000_0000_1010 = some (.ldImm 0 0x0A) ∧ decodeWord 0b0111_1111_0000_0011 = some (.addImm 15 3) ∧
    decodeWord 0b1010_0011_0000_0000 = some (.ldI 0x300) ∧ decodeWord 0b1100_0011_0000_1111 = some (.rnd 3 0x0F) ∧
    decodeWord 0b1101_0001_0010_0011 = some (.drw 1 2 3) := by decide

theorem test_decode_family8 :
    decodeWord 0b1000_0001_0010_0000 = some (.ldReg 1 2) ∧ decodeWord 0b1000_0001_0010_0001 = some (.orReg 1 2) ∧
    decodeWord 0b1000_0001_0010_0010 = some (.andReg 1 2) ∧ decodeWord 0b1000_0001_0010_0011 = some (.xorReg 1 2) ∧
    decodeWord 0b1000_0001_0010_0100 = some (.addReg 1 2) ∧ decodeWord 0b1000_0001_0010_0101 = some (.subReg 1 2) ∧
    decodeWord 0b1000_0001_0010_0110 = some (.shr 1 2) ∧ decodeWord 0b1000_0001_0010_0111 = some (.subnReg 1 2) ∧
    decodeWord 0b1000_0001_0010_1110 = some (.shl 1 2) := by decide

theorem test_decode_familyE :
    decodeWord 0b1110_0010_1001_1110 = some (.skp 2) ∧ decodeWord 0b1110_0010_1010_0001 = some (.sknp 2) := by decide

theorem test_decode_familyF :
    decodeWord 0b1111_0001_0000_0111 = some (.ldVxDt 1) ∧ decodeWord 0b1111_0011_0000_1010 = some (.ldVxK 3) ∧
    decodeWord 0b1111_0001_0001_0101 = some (.ldDtVx 1) ∧ decodeWord 0b1111_0001_0001_1000 = some (.ldStVx 1) ∧
    decodeWord 0b1111_0010_0001_1110 = some (.addIVx 2) ∧ decodeWord 0b1111_0100_0010_1001 = some (.ldFVx 4) ∧
    decodeWord 0b1111_0101_0011_0011 = some (.ldBVx 5) ∧ decodeWord 0b1111_0010_0101_0101 = some (.ldMemVx 2) ∧
    decodeWord 0b1111_0010_0110_0101 = some (.ldVxMem 2) := by decide

/-- DE-1 to DE-8. -/
theorem test_decode_unknown :
    ([0x0000, 0x0123, 0x00FF, 0x8128, 0x812F, 0xE000, 0xF0FF, 0xF030] : List Word).map decodeWord =
      List.replicate 8 none := by decide

/-- L1-1. -/
theorem test_fields :
    fieldsOf 0xD123 = ⟨0xD, 0x1, 0x2, 0x3, 0x23, 0x123⟩ ∧ fieldsOf 0xFFFF = ⟨0xF, 0xF, 0xF, 0xF, 0xFF, 0xFFF⟩ := by decide

/-- The bytes of a word stand high byte first (R46), and fewer than two bytes are no instruction (R59). -/
theorem test_decode_bytes :
    decode [0x12, 0x34, 0x56] = .ok (.jp 0x234, [0x56]) ∧ decode [0x12] = .error (.tooShort 1) ∧
    decode [0x00, 0x00] = .error (.unknownOpcode 0) := by decide

theorem test_decodeTableWord :
    decodeTableWord 16 0xF533 = some (.ldBVx 5) ∧ decodeTableWord 16 0x0000 = none := by decide

/-! ## Control transfer -/

/-- CF-4, CF-5. -/
theorem test_call : okOn (start 0x204 []) 0x2210 (fun t => t.pc == 0x210 && t.stack == [0x206]) = true ∧
    okOn (start 0xFFE []) 0x2300 (fun t => t.pc == 0x300 && t.stack == [0x1000]) = true := by decide

/-- CF-6. -/
theorem test_call_full :
    errOn ((start 0x200 []).setStack (List.replicate 16 0x202)) 0x2200 (.stackOverflow 0x200) = true := by decide

/-- CF-9, CF-8. -/
theorem test_ret : okOn ((start 0x210 []).setStack [0x206]) 0x05EE (fun t => t.pc == 0x206 && t.stack == []) = true ∧
    errOn (start 0x200 []) 0x00EE (.stackUnderflow 0x200) = true := by decide

/-- The last value pushed is the first popped (R25). -/
theorem test_ret_last : okOn ((start 0x210 []).setStack [0x206, 0x400]) 0x00EE
    (fun t => t.pc == 0x400 && t.stack == [0x206]) = true := by decide

/-- CF-1, CF-3. -/
theorem test_jp : okOn (start 0x206 []) 0x1200 (fun t => t.pc == 0x200) = true ∧
    okOn (start 0x200 []) 0x1FFF (fun t => t.pc == 0xFFF) = true := by decide

/-- CF-19, CF-20. -/
theorem test_jpV0 : okOn (start 0x200 [(0, 0x04)]) 0xB300 (fun t => t.pc == 0x304) = true ∧
    okOn (start 0x200 [(0, 0xFF)]) 0xBFFF (fun t => t.pc == 0x10FE) = true := by decide

/-- CF-10, CF-11. -/
theorem test_seImm : okOn (start 0x300 [(3, 0x42)]) 0x3342 (fun t => t.pc == 0x304) = true ∧
    okOn (start 0x300 [(3, 0x42)]) 0x3343 (fun t => t.pc == 0x302) = true := by decide

/-- CF-12, CF-13. -/
theorem test_sneImm : okOn (start 0x300 [(3, 0x42)]) 0x4342 (fun t => t.pc == 0x302) = true ∧
    okOn (start 0x300 [(3, 0x42)]) 0x4300 (fun t => t.pc == 0x304) = true := by decide

/-- CF-15, CF-16. -/
theorem test_seReg : okOn (start 0x200 [(1, 7), (2, 8)]) 0x5120 (fun t => t.pc == 0x202) = true ∧
    okOn (start 0x200 [(1, 7), (2, 7)]) 0x5121 (fun t => t.pc == 0x204) = true := by decide

/-- CF-17, CF-18. -/
theorem test_sneReg : okOn (start 0x200 [(1, 7), (2, 8)]) 0x9120 (fun t => t.pc == 0x204) = true ∧
    okOn (start 0x200 [(1, 7)]) 0x9110 (fun t => t.pc == 0x202) = true := by decide

/-! ## Registers and the ALU -/

/-- AL-1. -/
theorem test_ldImm : okOn (start 0x200 []) 0x600A (fun t => t.getV 0 == 0x0A && t.pc == 0x202) = true := by decide

/-- AL-3, AL-4. -/
theorem test_addImm : okOn (start 0x200 [(0, 0xFF)]) 0x7001 (fun t => t.getV 0 == 0 && t.getV VF == 0) = true ∧
    okOn (start 0x200 [(15, 0xFE)]) 0x7F03 (fun t => t.getV VF == 1) = true := by decide

/-- AL-5. -/
theorem test_ldReg : okOn (start 0x200 [(2, 0x33)]) 0x8120 (fun t => t.getV 1 == 0x33 && t.getV 2 == 0x33) = true := by decide

/-- AL-6, AL-7, AL-8. -/
theorem test_logic :
    okOn (start 0x200 [(1, 0x0F), (2, 0xF0), (15, 0x55)]) 0x8121 (fun t => t.getV 1 == 0xFF && t.getV VF == 0x55) = true ∧
    okOn (start 0x200 [(1, 0x3C), (2, 0x0F), (15, 0x55)]) 0x8122 (fun t => t.getV 1 == 0x0C && t.getV VF == 0x55) = true ∧
    okOn (start 0x200 [(1, 0xFF), (2, 0x0F), (15, 0x55)]) 0x8123 (fun t => t.getV 1 == 0xF0 && t.getV VF == 0x55) = true := by
  decide

/-- AL-10, AL-14. -/
theorem test_addReg : okOn (start 0x200 [(1, 0xC8), (2, 0x64)]) 0x8124 (fun t => t.getV 1 == 0x2C && t.getV VF == 1) = true ∧
    okOn (start 0x200 [(15, 0xF0), (1, 0x20)]) 0x8F14 (fun t => t.getV VF == 1) = true := by decide

/-- AL-15: the old VF is the addend. -/
theorem test_addReg_flagOperand :
    okOn (start 0x200 [(1, 0x10), (15, 0x05)]) 0x81F4 (fun t => t.getV 1 == 0x15 && t.getV VF == 0) = true := by decide

/-- AL-17, AL-18. -/
theorem test_subReg : okOn (start 0x200 [(1, 3), (2, 3)]) 0x8125 (fun t => t.getV 1 == 0 && t.getV VF == 1) = true ∧
    okOn (start 0x200 [(2, 1), (15, 0x55)]) 0x8125 (fun t => t.getV 1 == 0xFF && t.getV VF == 0) = true := by decide

/-- AL-20, AL-23. -/
theorem test_shr : okOn (start 0x200 [(1, 5), (2, 0xAA)]) 0x8126 (fun t => t.getV 1 == 2 && t.getV VF == 1) = true ∧
    okOn (start 0x200 [(15, 3)]) 0x8F06 (fun t => t.getV VF == 1) = true := by decide

/-- AL-24, AL-25. -/
theorem test_subnReg : okOn (start 0x200 [(1, 3), (2, 5)]) 0x8127 (fun t => t.getV 1 == 2 && t.getV VF == 1) = true ∧
    okOn (start 0x200 [(1, 5), (2, 3)]) 0x8127 (fun t => t.getV 1 == 0xFE && t.getV VF == 0) = true := by decide

/-- AL-27, AL-29. -/
theorem test_shl : okOn (start 0x200 [(1, 0x81)]) 0x810E (fun t => t.getV 1 == 2 && t.getV VF == 1) = true ∧
    okOn (start 0x200 [(1, 0x7F), (15, 1)]) 0x810E (fun t => t.getV 1 == 0xFE && t.getV VF == 0) = true := by decide

/-- AL-32: a mask of 0 writes 0 whatever the draw, and the draw is taken. -/
theorem test_rnd_mask0 : ∃ t, exec (.rnd 3 0x00) (start 0x200 [(3, 0x55)]) = .next t ∧ t.getV 3 = 0 ∧ t.draws = 1 :=
  ⟨_, rfl, BitVec.and_zero, rfl⟩

/-- AL-33 for every draw. -/
theorem test_rnd_maskFF : ∃ t, exec (.rnd 3 0xFF) State.reset = .next t ∧ t.getV 3 = Config.freeByte 0 :=
  ⟨_, rfl, BitVec.and_allOnes⟩

/-! ## Index register and memory -/

/-- MM-1. -/
theorem test_ldI : okOn (start 0x200 []) 0xA300 (fun t => t.i == 0x300 && t.pc == 0x202) = true := by decide

/-- MM-3, MM-4. -/
theorem test_addIVx : okOn (startAt 0xFFF [(1, 1)]) 0xF11E (fun t => t.i == 0x1000 && t.getV VF == 0) = true ∧
    okOn (startAt 0xFFFF [(1, 2)]) 0xF11E (fun t => t.i == 1) = true := by decide

/-- MM-6, MM-7. -/
theorem test_ldFVx : okOn (start 0x200 [(4, 0x1A)]) 0xF429 (fun t => t.i == 0x32) = true ∧
    okOn (start 0x200 [(4, 0x0F)]) 0xF429 (fun t => t.i == 0x4B) = true := by decide

/-- MM-8. -/
theorem test_ldBVx : okOn (startAt 0x300 [(5, 157)]) 0xF533
    (fun t => t.loadBytes 0x300 3 == [1, 5, 7] && t.i == 0x300) = true := by decide

/-- MM-11, MM-12. -/
theorem test_ldBVx_end : okOn (startAt 0xFFD [(5, 42)]) 0xF533 (fun t => t.loadBytes 0xFFD 3 == [0, 4, 2]) = true ∧
    errOn (startAt 0xFFE [(5, 42)]) 0xF533 (.memoryOutOfBounds 0x1000) = true := by decide

/-- MM-13. -/
theorem test_ldMemVx : okOn (startAt 0x300 [(0, 1), (1, 2), (2, 3)]) 0xF155
    (fun t => t.loadBytes 0x300 3 == [1, 2, 0] && t.i == 0x300) = true := by decide

/-- The example of R115. -/
theorem test_ldVxMem : okOn ((startAt 0x300 [(3, 9)]).storeBytes 0x300 [1, 5, 7, 8]) 0xF265
    (fun t => t.getV 0 == 1 && t.getV 1 == 5 && t.getV 2 == 7 && t.getV 3 == 9) = true := by decide

/-- Writing what an unlisted address reads as removes the entry (log entry 26). -/
theorem test_memory_canonical : Memory.write [(0x300, 1)] 0x300 0 = [] ∧ Memory.write [(0x300, 1)] 0x000 0xF0 = [(0x300, 1)] ∧
    Memory.write [(0x300, 1)] 0x000 0 = [(0x000, 0), (0x300, 1)] := by decide

/-! ## Framebuffer -/

/-- DE-9. -/
theorem test_cls : okOn ((start 0x200 []).setDisplay (Display.clear.toggle 3 3)) 0x07E0
    (fun t => t.display == Display.clear && t.pc == 0x202) = true := by decide

/-- DS-3: the row wraps to column 0. -/
theorem test_drw_wrap : okOn ((startAt 0x300 [(0, 60), (15, 0x55)]).storeBytes 0x300 [0xFF]) 0xD011
    (fun t => t.display.pixel 60 0 && t.display.pixel 3 0 && !t.display.pixel 4 0 && t.getV VF == 0) = true := by decide

/-- DS-5: the lit pixel is erased, and VF is 1. -/
theorem test_drw_collision : okOn (((startAt 0x300 []).storeBytes 0x300 [0xC0]).setDisplay (Display.clear.toggle 1 0)) 0xD011
    (fun t => t.display.pixel 0 0 && !t.display.pixel 1 0 && t.getV VF == 1) = true := by decide

/-- DS-10, DS-11. -/
theorem test_drw_errors : errOn (startAt 0xFFE []) 0xD013 (.memoryOutOfBounds 0x1000) = true ∧
    errOn (startAt 0xFFE [(0, 64)]) 0xD013 (.invalidDrawArgs 64 0 3) = true := by decide

/-! ## Keys, timers and the host -/

/-- KT-5, KT-2. -/
theorem test_skp : okOn ((start 0x200 [(2, 0x15)]).setKey 5 true) 0xE29E (fun t => t.pc == 0x204) = true ∧
    okOn (start 0x200 [(2, 5)]) 0xE29E (fun t => t.pc == 0x202) = true := by decide

/-- KT-3, KT-4. -/
theorem test_sknp : okOn (start 0x200 [(2, 5)]) 0xE2A1 (fun t => t.pc == 0x204) = true ∧
    okOn ((start 0x200 [(2, 5)]).setKey 5 true) 0xE2A1 (fun t => t.pc == 0x202) = true := by decide

/-- KT-6. -/
theorem test_ldVxDt : okOn ((start 0x200 []).setDt 0x3C) 0xF107 (fun t => t.getV 1 == 0x3C) = true := by decide

/-- KT-7, KT-9. -/
theorem test_ldVxK : okOn (start 0x200 []) 0xF30A (fun t => t.pc == 0x200 && t.getV 3 == 0) = true ∧
    okOn (((start 0x200 []).setKey 9 true).setKey 4 true) 0xF30A (fun t => t.pc == 0x202 && t.getV 3 == 4) = true := by decide

/-- KT-10. -/
theorem test_ldDtVx : okOn (start 0x200 [(1, 0x3C)]) 0xF115 (fun t => t.dt == 60 && t.st == 0) = true := by decide

/-- KT-11, KT-12. -/
theorem test_ldStVx : okOn (start 0x200 [(1, 5)]) 0xF118 (fun t => t.st == 5 && soundActive t) = true ∧
    okOn ((start 0x200 []).setSt 9) 0xF118 (fun t => t.st == 0 && !soundActive t) = true := by decide

/-- TK-2, TK-4. -/
theorem test_tick : soundActive (tick (State.reset.setSt 1)) = false ∧
    (tick ((State.reset.setDt 255).setSt 255)).dt = 254 := by decide

/-- DE-10, DE-11. -/
theorem test_fetch_end : State.fetch (start 0xFFF []) = .error (.memoryOutOfBounds 0xFFF) ∧
    State.fetch (start 0x1000 []) = .error (.memoryOutOfBounds 0x1000) := by decide

/-- DE-12: an odd `pc`. -/
theorem test_fetch_odd : okOn (start 0x201 []) 0x6123 (fun t => t.getV 1 == 0x23 && t.pc == 0x203) = true := by decide

/-- DE-4: an unknown word is reported with `pc` where it was. -/
theorem test_unknown : errOn (start 0x200 []) 0x8128 (.unknownOpcode 0x8128) = true := by decide

/-- LD-3: after a ROM of 0 bytes the first step meets the word 0x0000. -/
theorem test_load_empty : (session .powerOn [.load [], .step]).2 = [.ok, .err (.unknownOpcode 0)] := by decide

/-- P6a: an error is sticky. -/
theorem test_sticky : (session .powerOn [.load [0x00, 0xEE], .step, .step]).2 =
    [.ok, .err (.stackUnderflow 0x200), .err (.stackUnderflow 0x200)] := by decide

/-- A second `load` does not give the oracle's first byte again: after CXNN, `load`, CXNN two bytes are drawn (R106). -/
theorem test_load_keeps_draws :
    (session .powerOn [.load [0xC0, 0xFF], .step, .load [0xC0, 0xFF], .step]).1.draws = 2 := by decide

/-- A session from power-on that leaves a core. -/
theorem test_witness_EverySession : ∃ t, (session .powerOn [.load [0x12, 0x00], .step, .tick]).1 = .running t := ⟨_, rfl⟩

/-- Before the first `load` there is no core (R168). -/
theorem test_noCore : (session .powerOn [.step]).2 = [.noCore] := by decide

/-! ## Witnesses: for each obligation that has hypotheses, a state and operands that meet them, clause by clause -/

theorem test_witness_DecodeOfEncode : (Instr.cls 15).wellFormed = true ∧ (Instr.drw 15 0 15).wellFormed = true := by decide

theorem test_witness_EncodeOfDecode : decode [0xF5, 0x33, 0x00] = .ok (.ldBVx 5, [0x00]) := by decide

theorem test_witness_IgnoredNibbles :
    ((0x00E0 ^^^ 0x0FE0 : Word) &&& 0xF0FF = 0 ∧ (fieldsOf 0x00E0).f = 0 ∧ decodeWord 0x00E0 = some (.cls 0)) ∧
    ((0x5120 ^^^ 0x512F : Word) &&& 0xFFF0 = 0 ∧ (fieldsOf 0x5120).f = 5 ∧ (fieldsOf 0x9120).f = 9) ∧
    ((0x8106 ^^^ 0x81F6 : Word) &&& 0xFF0F = 0 ∧ (fieldsOf 0x8106).f = 8 ∧ (fieldsOf 0x8106).n = 6 ∧
      (fieldsOf 0x810E).n = 0xE) := by decide

/-- The last two bytes of memory hold a JP: the highest `pc` a step can use. -/
theorem test_witness_StepRuns : ∃ s : State, s.pc.toNat ≤ 0xFFE ∧ (Instr.jp 0x200).wellFormed = true ∧
    decode [s.readByte s.pc.toNat, s.readByte (s.pc.toNat + 1)] = .ok (.jp 0x200, []) :=
  ⟨(start 0xFFE []).placeWord 0x1200, by decide⟩

theorem test_witness_Fetch : (start 0xFFF []).pc.toNat > 0xFFE ∧ (start 0xFFE []).pc.toNat ≤ 0xFFE := by decide

theorem test_witness_PcPolicy : ∃ t, exec (.skp 0) State.reset = .next t := ⟨_, rfl⟩

theorem test_witness_MemWrite : (0xFFF : Nat) ≤ 0xFFF := by decide

theorem test_witness_CanonicalMemory :
    Memory.wf [(0x300, 7), (0xFFF, 9)] ∧ Memory.wf (Memory.write (Memory.write [] 0xFFF 9) 0x300 7) ∧
    ∀ a, Memory.read [(0x300, 7), (0xFFF, 9)] a = Memory.read (Memory.write (Memory.write [] 0xFFF 9) 0x300 7) a :=
  ⟨by decide, by decide, fun _ => rfl⟩

theorem test_witness_RangeCheck : checkRange 0xFFE 3 = some (.memoryOutOfBounds 0x1000) ∧ checkRange 0xFFD 3 = none ∧
    checkRange 0xFFFF 1 = some (.memoryOutOfBounds 0xFFFF) := by decide

theorem test_witness_fields : (fieldsOf 0x1FFF).f = 1 ∧ (fieldsOf 0x3F00).f = 3 ∧ (fieldsOf 0x4F00).f = 4 ∧
    (fieldsOf 0x6FFF).f = 6 ∧ (fieldsOf 0x7FFF).f = 7 ∧ ((fieldsOf 0x8FF0).f = 8 ∧ (fieldsOf 0x8FF0).n = 0) ∧
    (fieldsOf 0xAFFF).f = 0xA ∧ ((fieldsOf 0xF107).f = 0xF ∧ (fieldsOf 0xF107).nn = 0x07) ∧
    ((fieldsOf 0xF115).f = 0xF ∧ (fieldsOf 0xF115).nn = 0x15) ∧
    ((fieldsOf 0xF118).f = 0xF ∧ (fieldsOf 0xF118).nn = 0x18) := by decide

theorem test_witness_Call :
    (State.reset.setStack (List.replicate 15 0x202)).stack.length < Config.stackCapacity ∧
    (State.reset.setStack (List.replicate 16 0x202)).stack.length ≥ Config.stackCapacity := by decide

theorem test_witness_Return : (State.reset.setStack [0x206]).stack = [] ++ [0x206] ∧
    (State.reset.setStack (List.replicate 16 0x202)).stack = List.replicate 15 0x202 ++ [0x202] ∧ State.reset.stack = [] := by
  decide

theorem test_witness_CallThenReturn : ∃ t, exec (.call 0x300) State.reset = .next t ∧ (t.setV 3 9).stack = t.stack :=
  ⟨_, rfl, rfl⟩

theorem test_witness_SelfJump : (State.reset.placeWord 0x1200).fetchInstr = .ok (.jp 0x200) ∧
    (State.reset.placeWord 0x1200).pc.toNat = (0x200 : Addr12).toNat := by decide

theorem test_witness_destinations : (14 : RegIx) ≠ VF ∧ (0 : RegIx) ≠ VF := by decide

theorem test_witness_RegistersChange :
    (∃ t, exec (.ldImm 3 9) State.reset = .next t ∧ t.getV 3 ≠ State.reset.getV 3) ∧
    ∃ t, Instr.addReg 1 2 ∈ [.addReg 1 2, .subReg 1 2, .shr 1 2, .subnReg 1 2, .shl 1 2, .drw 1 2 (3 : Nibble)] ∧
      exec (.addReg 1 2) State.reset = .next t := ⟨⟨_, rfl, by decide⟩, _, by decide, rfl⟩

theorem test_witness_DecimalDigits : (startAt 0xFFD []).i.toNat + 2 ≤ 0xFFF ∧ (startAt 0xFFE []).i.toNat + 2 > 0xFFF := by
  decide

theorem test_witness_BlockTransfers :
    (startAt 0xFF0 []).i.toNat + (15 : RegIx).val ≤ 0xFFF ∧ (startAt 0xFF1 []).i.toNat + (15 : RegIx).val > 0xFFF ∧
    (startAt 0xFFF []).i.toNat + (0 : RegIx).val ≤ 0xFFF ∧ (startAt 0x1000 []).i.toNat + (0 : RegIx).val > 0xFFF := by decide

theorem test_witness_MemoryChanges : ∃ t, exec (.ldMemVx 0) (startAt 0x300 [(0, 9)]) = .next t ∧
    t.readByte 0x300 ≠ (startAt 0x300 [(0, 9)]).readByte 0x300 := ⟨_, rfl, by decide⟩

theorem test_witness_StoredCode : ∃ t, 1 ≤ (1 : RegIx).val ∧ exec (.ldMemVx 1) (startAt 0x202 [(0, 0x12)]) = .next t ∧
    (startAt 0x202 [(0, 0x12)]).i = (startAt 0x202 [(0, 0x12)]).pc + 2 := ⟨_, by decide, rfl, by decide⟩

/-- Each piece of state is changed by some instruction. -/
theorem test_witness_SpecialState :
    (∃ t, exec (.ldI 5) State.reset = .next t ∧ t.i ≠ State.reset.i) ∧
    (∃ t, exec (.call 5) State.reset = .next t ∧ t.stack ≠ State.reset.stack) ∧
    (∃ t, exec (.ldDtVx 0) (start 0x200 [(0, 5)]) = .next t ∧ t.dt ≠ (start 0x200 [(0, 5)]).dt) ∧
    (∃ t, exec (.ldStVx 0) (start 0x200 [(0, 5)]) = .next t ∧ t.st ≠ (start 0x200 [(0, 5)]).st) ∧
    (∃ t, exec (.drw 0 0 1) State.reset = .next t ∧ t.display ≠ State.reset.display) ∧
    ∃ t, exec (.rnd 0 5) State.reset = .next t ∧ t.draws ≠ State.reset.draws :=
  ⟨⟨_, rfl, by decide⟩, ⟨_, rfl, by decide⟩, ⟨_, rfl, by decide⟩, ⟨_, rfl, by decide⟩, ⟨_, rfl, by decide⟩, _, rfl, by decide⟩

/-- The last origin inside the canvas, and a sprite that ends at the last byte of memory. -/
theorem test_witness_Draw :
    ((startAt 0xFFF [(0, 63), (1, 31)]).getV 0).toNat < 64 ∧ ((startAt 0xFFF [(0, 63), (1, 31)]).getV 1).toNat < 32 ∧
    (1 : Nibble).toNat ≠ 0 ∧ (startAt 0xFFF [(0, 63), (1, 31)]).i.toNat + (1 : Nibble).toNat ≤ 0x1000 := by decide

/-- Each way a draw is refused, at its boundary. -/
theorem test_witness_DrawErrors :
    ((start 0x200 [(0, 64)]).getV 0).toNat ≥ 64 ∧ ((start 0x200 [(1, 32)]).getV 1).toNat ≥ 32 ∧ (0 : Nibble).toNat = 0 ∧
    (((startAt 0xFFF [(0, 63), (1, 31)]).getV 0).toNat < 64 ∧ ((startAt 0xFFF [(0, 63), (1, 31)]).getV 1).toNat < 32 ∧
      (2 : Nibble).toNat ≠ 0 ∧ (startAt 0xFFF [(0, 63), (1, 31)]).i.toNat + (2 : Nibble).toNat > 0x1000) := by decide

/-- The first draw of glyph 0 reports no collision. -/
theorem test_witness_DrawTwice : ∃ t, (0 : RegIx) ≠ VF ∧ exec (.drw 0 0 5) State.reset = .next t ∧ t.getV VF = 0 :=
  ⟨_, by decide, rfl, by decide⟩

/-- A sprite on a lit pixel (log entry 32): both draws end `Ok`, and the sprite has a 1 bit. -/
theorem test_witness_SecondDraw : ∃ t u, (0 : RegIx) ≠ VF ∧
    exec (.drw 0 0 1) (((startAt 0x300 []).storeBytes 0x300 [0x80]).setDisplay (Display.clear.toggle 0 0)) = .next t ∧
    exec (.drw 0 0 1) t = .next u ∧
    ((((startAt 0x300 []).storeBytes 0x300 [0x80]).setDisplay (Display.clear.toggle 0 0)).readByte 0x300).getLsbD 7 = true :=
  ⟨_, _, by decide, rfl, rfl, by decide⟩

theorem test_witness_KeySkips : (15 : KeyIx).val = ((start 0x200 [(2, 0xFF)]).getV 2).toNat % 16 := by decide

theorem test_witness_KeyWait : (∀ k, State.reset.getKey k = false) ∧
    ((State.reset.setKey 15 true).getKey 15 = true ∧ ∀ j, j < 15 → (State.reset.setKey 15 true).getKey j = false) ∧
    (State.reset.setKey 0 true).getKey 0 = true := by decide

theorem test_witness_DelayTimer : ∃ t, step (State.reset.placeWord 0x00E0) = .next t ∧
    ∀ x, (State.reset.placeWord 0x00E0).fetchInstr ≠ .ok (.ldDtVx x) := ⟨_, rfl, by decide⟩

theorem test_witness_NotRead : (∀ x y n, Instr.call 0x300 ≠ .drw x y n) ∧
    exec (.call 0x300) (State.reset.setStack (List.replicate 16 0x202)) = .fault (.stackOverflow 0x200) ∧
    ∃ t, exec (.call 0x300) State.reset = .next t := ⟨fun _ _ _ h => (nomatch h), rfl, _, rfl⟩

theorem test_witness_ErrorsStick : step (State.reset.placeWord 0x00EE) = .fault (.stackUnderflow 0x200) ∧
    ∀ rom, Transaction.load rom ∉ [.step, .tick, .setKey 3 true] := ⟨rfl, by simp⟩

theorem test_witness_KeyWaitEnds : (State.reset.placeWord 0xF30A).fetchInstr = .ok (.ldVxK 3) ∧
    (∀ k, (State.reset.placeWord 0xF30A).getKey k = false) ∧ (∀ rom, Transaction.load rom ∉ [.step, .tick, .step]) ∧
    ∀ k b, Transaction.setKey k b ∉ [.step, .tick, .step] := ⟨by decide, by decide, by simp, by simp⟩

theorem test_witness_Load : (List.replicate 3584 (0x12 : Byte)).length ≤ 3584 ∧
    (List.replicate 3585 (0x12 : Byte)).length > 3584 := by
  simp only [List.length_replicate]; decide

/-- A state with memory listed, a full stack less one, and a CALL to run. -/
theorem test_witness_Invariant :
    State.Inv ((State.reset.placeWord 0x2200).setStack (List.replicate 15 0x202)) ∧
    okOn (State.reset.setStack (List.replicate 15 0x202)) 0x2200 (fun t => t.stack.length == 16) = true :=
  ⟨⟨by decide, by decide, fun _ h => (List.eq_of_mem_replicate h) ▸ (by decide), by decide⟩, by decide⟩

end Sys2Proof.Tests
end

section
/-! PROOFS. The statements about encoding and decoding (30_encoding.md). -/

namespace Sys2Proof

/-- Settles O1: the laws of the word and of its fields as numbers (R56). -/
theorem fieldsSplitTheWord : Obligations.FieldsSplitTheWord := by
  unfold Obligations.FieldsSplitTheWord
  exact ⟨toNat_wordOfBytes, toNat_fieldsOf⟩

end Sys2Proof
end

section
/-! PROOFS. The statements about control transfer (40_control_flow.md). -/

namespace Sys2Proof

/-! ### The families 1, 3 and 4, which no sub-selector divides (R61) -/

theorem decodeWord_of_family1 {w : Word} (h : (fieldsOf w).f = 0x1) : decodeWord w = some (.jp (fieldsOf w).nnn) := by
  simp [decodeWord_eq, selectFields, h]

theorem decodeWord_of_family3 {w : Word} (h : (fieldsOf w).f = 0x3) :
    decodeWord w = some (.seImm (fieldsOf w).vx (fieldsOf w).nn) := by
  simp [decodeWord_eq, selectFields, h]

theorem decodeWord_of_family4 {w : Word} (h : (fieldsOf w).f = 0x4) :
    decodeWord w = some (.sneImm (fieldsOf w).vx (fieldsOf w).nn) := by
  simp [decodeWord_eq, selectFields, h]

namespace Machine

/-! ### What moving `pc` leaves alone -/

/-- A jump is in every frame: only `pc` moves. -/
theorem onlyRegs_setPc (rs : List RegIx) (s : State) (a : Word) : OnlyRegs rs s (s.setPc a) := by
  refine ⟨?regs, s.setPc_i a, s.setPc_stack a, ⟨s.setPc_dt a, s.setPc_st a⟩, ?display, ?keys, ?memory⟩
  case regs => exact fun r _ => s.setPc_getV a r
  case display => exact fun x y => by rw [s.setPc_display a]
  case keys => exact fun k => s.setPc_getKey a k
  case memory => exact fun b => s.setPc_readByte a b

/-- A skip is a jump to one of two addresses, so it has a jump's frame (R78). -/
theorem onlyRegs_skipIf (rs : List RegIx) (s : State) (cond : Bool) : OnlyRegs rs s (s.skipIf cond) :=
  onlyRegs_setPc rs s _

/-! ### Where a skip goes (R78) -/

theorem State.skipIf_pc_of_true (s : State) {cond : Bool} (h : cond = true) : (s.skipIf cond).pc = s.pc + 4 := by
  rw [State.skipIf_pc, if_pos h, BitVec.add_assoc]
  rfl

theorem State.skipIf_pc_of_false (s : State) {cond : Bool} (h : cond = false) : (s.skipIf cond).pc = s.pc + 2 := by
  rw [State.skipIf_pc, if_neg (by simp [h])]

/-- A skip on equal bytes, the comparison read as one of numbers (R79). -/
theorem State.skipIf_beq_pc (s : State) (a b : Byte) :
    (s.skipIf (a == b)).pc = if a.toNat = b.toNat then s.pc + 4 else s.pc + 2 := by
  by_cases h : a = b
  · rw [s.skipIf_pc_of_true (beq_iff_eq.2 h), if_pos (congrArg BitVec.toNat h)]
  · rw [s.skipIf_pc_of_false (beq_false_of_ne h), if_neg (mt BitVec.eq_of_toNat_eq h)]

/-- A skip on different bytes, the comparison read as one of numbers (R80). -/
theorem State.skipIf_bne_pc (s : State) (a b : Byte) :
    (s.skipIf (a != b)).pc = if a.toNat = b.toNat then s.pc + 2 else s.pc + 4 := by
  by_cases h : a = b
  · rw [s.skipIf_pc_of_false (by simp [h]), if_pos (congrArg BitVec.toNat h)]
  · rw [s.skipIf_pc_of_true (bne_iff_ne.2 h), if_neg (mt BitVec.eq_of_toNat_eq h)]

/-! ### The meanings, as one update each -/

theorem exec_jp (nnn : Addr12) (s : State) : exec (.jp nnn) s = .next (s.setPc (zextAddr nnn)) := rfl

theorem exec_seImm (x : RegIx) (nn : Byte) (s : State) : exec (.seImm x nn) s = .next (s.skipIf (s.getV x == nn)) := rfl

theorem exec_sneImm (x : RegIx) (nn : Byte) (s : State) : exec (.sneImm x nn) s = .next (s.skipIf (s.getV x != nn)) := rfl

end Machine

open Machine

/-- Settles O16: JP is one write of `pc`, and the zero-extended address is the address as a number (R76). -/
theorem jumpGoesToItsAddress : Obligations.JumpGoesToItsAddress := by
  unfold Obligations.JumpGoesToItsAddress
  refine ⟨fun _ => decodeWord_of_family1, fun nnn s => ⟨_, exec_jp nnn s, ?_, onlyRegs_setPc [] s _⟩⟩
  rw [State.setPc_pc, toNat_zextAddr]

/-- Settles O21: each immediate skip is one `SkipIf` on its comparison (R79, R80). -/
theorem immediateSkipsCompare : Obligations.ImmediateSkipsCompare := by
  unfold Obligations.ImmediateSkipsCompare
  refine ⟨fun _ => decodeWord_of_family3, fun _ => decodeWord_of_family4, fun x nn s => ⟨?se, ?sne⟩⟩
  case se => exact ⟨_, exec_seImm x nn s, onlyRegs_skipIf [] s _, s.skipIf_beq_pc _ _⟩
  case sne => exact ⟨_, exec_sneImm x nn s, onlyRegs_skipIf [] s _, s.skipIf_bne_pc _ _⟩

end Sys2Proof
end

section
/-! PROOFS. The statements about registers and the ALU (41_register_alu.md). -/

namespace Sys2Proof

/-! ### The families 6 and 7, and the words of family 8 that load (R61) -/

theorem decodeWord_of_family6 {w : Word} (h : (fieldsOf w).f = 0x6) :
    decodeWord w = some (.ldImm (fieldsOf w).vx (fieldsOf w).nn) := by
  simp [decodeWord_eq, selectFields, h]

theorem decodeWord_of_family7 {w : Word} (h : (fieldsOf w).f = 0x7) :
    decodeWord w = some (.addImm (fieldsOf w).vx (fieldsOf w).nn) := by
  simp [decodeWord_eq, selectFields, h]

theorem decodeWord_of_family8_load {w : Word} (hf : (fieldsOf w).f = 0x8) (hn : (fieldsOf w).n = 0x0) :
    decodeWord w = some (.ldReg (fieldsOf w).vx (fieldsOf w).vy) := by
  simp [decodeWord_eq, selectFields, selectFamily8, hf, hn]

namespace Machine

/-! ### Bytes and flags as numbers (R91) -/

theorem toNat_byte_sub (a b : Byte) : (a - b).toNat = (a.toNat + 256 - b.toNat) % 256 := by
  have hb := b.isLt
  rw [BitVec.toNat_sub]
  omega

theorem toNat_carryFlag (a b : Byte) : (carryFlag a b).toNat = if a.toNat + b.toNat > 255 then 1 else 0 := by
  simp only [carryFlag, toNat_flagOf, decide_eq_true_eq]

theorem toNat_noBorrowFlag (a b : Byte) : (noBorrowFlag a b).toNat = if a.toNat ≥ b.toNat then 1 else 0 := by
  simp only [noBorrowFlag, toNat_flagOf, decide_eq_true_eq]

theorem toNat_shiftedOutRight (a : Byte) : (shiftedOutRight a).toNat = a.toNat % 2 :=
  (BitVec.toNat_and a 1).trans (Nat.and_one_is_mod a.toNat)

/-- A byte shifted right by 7 has only bit 7 left, so the mask takes nothing from it. -/
theorem toNat_shiftedOutLeft (a : Byte) : (shiftedOutLeft a).toNat = a.toNat / 128 := by
  have ha := a.isLt
  have hmask : (shiftedOutLeft a).toNat = (a >>> 7).toNat % 2 := toNat_shiftedOutRight (a >>> 7)
  rw [hmask, BitVec.toNat_ushiftRight, Nat.shiftRight_eq_div_pow]
  omega

/-! ### What writing one register leaves alone -/

/-- A register write is in every frame that lists its register. -/
theorem onlyRegs_setV {rs : List RegIx} {x : RegIx} (hx : x ∈ rs) (s : State) (b : Byte) :
    OnlyRegs rs s (s.setV x b) := by
  refine ⟨?regs, s.setV_i x b, s.setV_stack x b, ⟨s.setV_dt x b, s.setV_st x b⟩, ?display, ?keys, ?memory⟩
  case regs =>
    intro r hr
    have hne : r ≠ x := fun e => hr (e ▸ hx)
    rw [State.setV_getV, if_neg hne]
  case display => exact fun px py => by rw [s.setV_display x b]
  case keys => exact fun k => s.setV_getKey x b k
  case memory => exact fun c => s.setV_readByte x b c

/-- Going on to the next instruction keeps a frame: `OnlyRegs` says nothing of `pc`. -/
theorem OnlyRegs.fallthrough {rs : List RegIx} {s t : State} (h : OnlyRegs rs s t) : OnlyRegs rs s t.fallthrough := h

/-- The state after an instruction that writes one register and goes on: the value, `pc` and the frame. -/
theorem setV_fallthrough_spec (s : State) (x : RegIx) (b : Byte) :
    (s.setV x b).fallthrough.getV x = b ∧ (s.setV x b).fallthrough.pc = s.pc + 2 ∧
    OnlyRegs [x] s (s.setV x b).fallthrough := by
  refine ⟨?value, rfl, (onlyRegs_setV (List.mem_singleton_self x) s b).fallthrough⟩
  rw [State.fallthrough_getV, State.setV_getV, if_pos rfl]

/-! ### The meanings, as one register write each -/

theorem exec_ldImm (x : RegIx) (nn : Byte) (s : State) : exec (.ldImm x nn) s = .next (s.setV x nn).fallthrough := rfl

theorem exec_ldReg (x y : RegIx) (s : State) : exec (.ldReg x y) s = .next (s.setV x (s.getV y)).fallthrough := rfl

theorem exec_addImm (x : RegIx) (nn : Byte) (s : State) :
    exec (.addImm x nn) s = .next (s.setV x (s.getV x + nn)).fallthrough := rfl

end Machine

open Machine

/-- Settles O24: each result and each flag is read as a number by its own lemma (R91). -/
theorem flagValuesFollowTheArithmetic : Obligations.FlagValuesFollowTheArithmetic := by
  unfold Obligations.FlagValuesFollowTheArithmetic
  exact fun a b => ⟨BitVec.toNat_add a b, toNat_byte_sub a b, toNat_carryFlag a b, toNat_noBorrowFlag a b,
    toNat_shiftedOutRight a, toNat_shiftedOutLeft a⟩

/-- Settles O25: both loads are one register write, and VF is a register like any other in it (R93, R95). -/
theorem loadsSetTheRegister : Obligations.LoadsSetTheRegister := by
  unfold Obligations.LoadsSetTheRegister
  refine ⟨fun _ => decodeWord_of_family6, fun _ => decodeWord_of_family8_load, fun x y nn s => ⟨?imm, ?reg⟩⟩
  case imm => exact ⟨_, exec_ldImm x nn s, setV_fallthrough_spec s x nn⟩
  case reg => exact ⟨_, exec_ldReg x y s, setV_fallthrough_spec s x (s.getV y)⟩

/-- Settles O26: the sum is written as one register write, with no second write of a flag (R94). -/
theorem addImmediateWrapsWithoutFlag : Obligations.AddImmediateWrapsWithoutFlag := by
  unfold Obligations.AddImmediateWrapsWithoutFlag
  refine ⟨fun _ => decodeWord_of_family7, fun x nn s => ?_⟩
  obtain ⟨hvalue, hpc, hframe⟩ := setV_fallthrough_spec s x (s.getV x + nn)
  refine ⟨_, exec_addImm x nn s, ?_, hpc, hframe⟩
  rw [hvalue, BitVec.toNat_add]

end Sys2Proof
end

section
/-! PROOFS. The statements about the index register and memory (42_index_memory.md). -/

namespace Sys2Proof

/-! ### The family A, which no sub-selector divides (R61) -/

theorem decodeWord_of_familyA {w : Word} (h : (fieldsOf w).f = 0xA) : decodeWord w = some (.ldI (fieldsOf w).nnn) := by
  simp [decodeWord_eq, selectFields, h]

namespace Machine

/-! ### What writing `I` leaves alone -/

/-- A write of `I` is in the frame that leaves `I` out. -/
theorem onlyIndex_setI (s : State) (a : Word) : OnlyIndex s (s.setI a) := by
  refine ⟨?regs, s.setI_stack a, ⟨s.setI_dt a, s.setI_st a⟩, ?display, ?keys, ?memory⟩
  case regs => exact fun r _ => s.setI_getV a r
  case display => exact fun x y => by rw [s.setI_display a]
  case keys => exact fun k => s.setI_getKey a k
  case memory => exact fun b => s.setI_readByte a b

/-- Going on to the next instruction keeps a frame: `OnlyIndex` says nothing of `pc`. -/
theorem OnlyIndex.fallthrough {s t : State} (h : OnlyIndex s t) : OnlyIndex s t.fallthrough := h

/-- The state after an instruction that writes `I` and goes on: the value, `pc` and the frame. -/
theorem setI_fallthrough_spec (s : State) (a : Word) :
    (s.setI a).fallthrough.i = a ∧ (s.setI a).fallthrough.pc = s.pc + 2 ∧ OnlyIndex s (s.setI a).fallthrough :=
  ⟨rfl, rfl, (onlyIndex_setI s a).fallthrough⟩

/-! ### The zero-extended address -/

/-- A zero-extended address is inside memory (R110). -/
theorem toNat_zextAddr_le (nnn : Addr12) : (zextAddr nnn).toNat ≤ 0xFFF := by
  rw [toNat_zextAddr]
  exact Nat.le_of_lt_succ nnn.isLt

/-! ### The meaning, as one write of `I` -/

theorem exec_ldI (nnn : Addr12) (s : State) : exec (.ldI nnn) s = .next (s.setI (zextAddr nnn)).fallthrough := rfl

end Machine

open Machine

/-- Settles O33: LD I is one write of `I`, and the zero-extended address is the address as a number (R110). -/
theorem loadIndexSetsTheAddress : Obligations.LoadIndexSetsTheAddress := by
  unfold Obligations.LoadIndexSetsTheAddress
  refine ⟨fun _ => decodeWord_of_familyA, fun nnn s => ?_⟩
  obtain ⟨hi, hpc, hframe⟩ := setI_fallthrough_spec s (zextAddr nnn)
  refine ⟨_, exec_ldI nnn s, ?value, ?bound, hpc, hframe⟩
  case value => rw [hi, toNat_zextAddr]
  case bound => exact hi ▸ toNat_zextAddr_le nnn

end Sys2Proof
end

section
/-! PROOFS. The statements about the keys and the timers (44_keys_timers.md). -/

namespace Sys2Proof

/-! ### The words of family F that set a timer (R61) -/

theorem decodeWord_of_familyF {w : Word} (h : (fieldsOf w).f = 0xF) : decodeWord w = selectFamilyF (fieldsOf w) := by
  simp [decodeWord_eq, selectFields, h]

theorem decodeWord_of_familyF_setDelay {w : Word} (hf : (fieldsOf w).f = 0xF) (hnn : (fieldsOf w).nn = 0x15) :
    decodeWord w = some (.ldDtVx (fieldsOf w).vx) := by
  simp [decodeWord_of_familyF hf, selectFamilyF, hnn]

theorem decodeWord_of_familyF_setSound {w : Word} (hf : (fieldsOf w).f = 0xF) (hnn : (fieldsOf w).nn = 0x18) :
    decodeWord w = some (.ldStVx (fieldsOf w).vx) := by
  simp [decodeWord_of_familyF hf, selectFamilyF, hnn]

namespace Machine

/-! ### The timers after a tick, and the sound (R152, R154) -/

/-- A tick stops at zero, as subtraction of natural numbers does. -/
theorem toNat_tickTimer (b : Byte) : (tickTimer b).toNat = b.toNat - 1 := by
  unfold tickTimer
  split
  case isTrue h => rw [h]; rfl
  case isFalse h => bv_omega

theorem toNat_tick_dt (s : State) : (tick s).dt.toNat = s.dt.toNat - 1 := toNat_tickTimer s.dt

theorem toNat_tick_st (s : State) : (tick s).st.toNat = s.st.toNat - 1 := toNat_tickTimer s.st

theorem soundActive_eq_true_iff (s : State) : soundActive s = true ↔ s.st.toNat > 0 := decide_eq_true_iff

theorem soundActive_tick_iff (s : State) : soundActive (tick s) = true ↔ s.st.toNat > 1 := by
  rw [soundActive_eq_true_iff, toNat_tick_st]
  exact Nat.sub_pos_iff_lt

/-! ### What writing a timer leaves alone -/

/-- A write of `DT` is in the frame that leaves the timers out. -/
theorem onlyTimers_setDt (s : State) (b : Byte) : OnlyTimers s (s.setDt b) := by
  refine ⟨?regs, s.setDt_i b, s.setDt_stack b, ?display, ?keys, ?memory⟩
  case regs => exact fun r _ => s.setDt_getV b r
  case display => exact fun x y => by rw [s.setDt_display b]
  case keys => exact fun k => s.setDt_getKey b k
  case memory => exact fun c => s.setDt_readByte b c

/-- A write of `ST` is in the frame that leaves the timers out. -/
theorem onlyTimers_setSt (s : State) (b : Byte) : OnlyTimers s (s.setSt b) := by
  refine ⟨?regs, s.setSt_i b, s.setSt_stack b, ?display, ?keys, ?memory⟩
  case regs => exact fun r _ => s.setSt_getV b r
  case display => exact fun x y => by rw [s.setSt_display b]
  case keys => exact fun k => s.setSt_getKey b k
  case memory => exact fun c => s.setSt_readByte b c

/-- Going on to the next instruction keeps a frame: `OnlyTimers` says nothing of `pc`. -/
theorem OnlyTimers.fallthrough {s t : State} (h : OnlyTimers s t) : OnlyTimers s t.fallthrough := h

/-! ### The meanings, as one write of a timer each -/

theorem exec_ldDtVx (x : RegIx) (s : State) : exec (.ldDtVx x) s = .next (s.setDt (s.getV x)).fallthrough := rfl

theorem exec_ldStVx (x : RegIx) (s : State) : exec (.ldStVx x) s = .next (s.setSt (s.getV x)).fallthrough := rfl

end Machine

open Machine

/-- Settles O49: each load is one write of its timer (R134, R135); the next tick takes one from it, and the sound follows `ST`. -/
theorem timersAreSet : Obligations.TimersAreSet := by
  unfold Obligations.TimersAreSet
  refine ⟨fun _ => decodeWord_of_familyF_setDelay, fun _ => decodeWord_of_familyF_setSound, fun x s => ⟨?delay, ?sound⟩⟩
  case delay =>
    exact ⟨_, exec_ldDtVx x s, rfl, rfl, rfl, (onlyTimers_setDt s _).fallthrough, toNat_tick_dt _⟩
  case sound =>
    exact ⟨_, exec_ldStVx x s, rfl, rfl, rfl, (onlyTimers_setSt s _).fallthrough, soundActive_eq_true_iff _,
      soundActive_tick_iff _⟩

end Sys2Proof
end

section
/-! PROOFS. The statements about the host's transactions `tick`, `set_key` and `sound_active` (60_exceptions.md). -/

namespace Sys2Proof

namespace Machine

/-! ### What the transactions leave alone -/

/-- A tick changes the two timers and no other field (R152). -/
theorem tick_frame (s : State) : tick s = { s with dt := (tick s).dt, st := (tick s).st } := rfl

/-- Setting a key changes the key vector and no other field (R154). -/
theorem setKey_frame (s : State) (k : KeyIx) (b : Bool) : s.setKey k b = { s with key := (s.setKey k b).key } := rfl

end Machine

open Machine

/-- Settles O51: each timer stops at zero as subtraction of natural numbers does, and a tick writes nothing but the two (R152). -/
theorem tickDecrementsBothTimers : Obligations.TickDecrementsBothTimers := by
  unfold Obligations.TickDecrementsBothTimers
  exact fun s => ⟨transact_tick s, toNat_tick_dt s, toNat_tick_st s, tick_frame s⟩

/-- Settles O52: `set_key` is one write of the key vector (R154), and the answer of `sound_active` is whether `ST` exceeds 0 (R153). -/
theorem setKeyAndSoundActive : Obligations.SetKeyAndSoundActive := by
  unfold Obligations.SetKeyAndSoundActive
  refine ⟨fun s k b => ?setKey, fun s => ?sound⟩
  case setKey =>
    exact ⟨s.setKey k b, transact_setKey s k b, s.setKey_getKey k b, setKey_frame s k b⟩
  case sound =>
    exact ⟨soundActive s, transact_soundActive s, soundActive_eq_true_iff s⟩

end Sys2Proof
end

section
/-! PROOFS. The statements about the decoder, the encoder and the opcode table (30_encoding.md), for every word. -/

namespace Sys2Proof

/-! ### The families a trailing nibble or byte divides, and the rest (R61) -/

theorem decodeWord_of_family0 {w : Word} (h : (fieldsOf w).f = 0x0) : decodeWord w = selectFamily0 (fieldsOf w) := by
  simp [decodeWord_eq, selectFields, h]

theorem decodeWord_of_family2 {w : Word} (h : (fieldsOf w).f = 0x2) : decodeWord w = some (.call (fieldsOf w).nnn) := by
  simp [decodeWord_eq, selectFields, h]

theorem decodeWord_of_family5 {w : Word} (h : (fieldsOf w).f = 0x5) :
    decodeWord w = some (.seReg (fieldsOf w).vx (fieldsOf w).vy (fieldsOf w).n) := by
  simp [decodeWord_eq, selectFields, h]

theorem decodeWord_of_family8 {w : Word} (h : (fieldsOf w).f = 0x8) : decodeWord w = selectFamily8 (fieldsOf w) := by
  simp [decodeWord_eq, selectFields, h]

theorem decodeWord_of_family9 {w : Word} (h : (fieldsOf w).f = 0x9) :
    decodeWord w = some (.sneReg (fieldsOf w).vx (fieldsOf w).vy (fieldsOf w).n) := by
  simp [decodeWord_eq, selectFields, h]

theorem decodeWord_of_familyB {w : Word} (h : (fieldsOf w).f = 0xB) : decodeWord w = some (.jpV0 (fieldsOf w).nnn) := by
  simp [decodeWord_eq, selectFields, h]

theorem decodeWord_of_familyC {w : Word} (h : (fieldsOf w).f = 0xC) :
    decodeWord w = some (.rnd (fieldsOf w).vx (fieldsOf w).nn) := by
  simp [decodeWord_eq, selectFields, h]

theorem decodeWord_of_familyD {w : Word} (h : (fieldsOf w).f = 0xD) :
    decodeWord w = some (.drw (fieldsOf w).vx (fieldsOf w).vy (fieldsOf w).n) := by
  simp [decodeWord_eq, selectFields, h]

theorem decodeWord_of_familyE {w : Word} (h : (fieldsOf w).f = 0xE) : decodeWord w = selectFamilyE (fieldsOf w) := by
  simp [decodeWord_eq, selectFields, h]

/-! ### Decode after encode, family by family -/

/-- The word of an instruction decodes to it. -/
theorem decodeWord_encode (i : Instr) : decodeWord (encode i) = some i := by
  cases i with
  | cls _ | ret _ => simp [encode, decodeWord_of_family0, selectFamily0]
  | jp _ => simp [encode, decodeWord_of_family1]
  | call _ => simp [encode, decodeWord_of_family2]
  | seImm _ _ => simp [encode, decodeWord_of_family3, Fields.vx]
  | sneImm _ _ => simp [encode, decodeWord_of_family4, Fields.vx]
  | seReg _ _ _ => simp [encode, decodeWord_of_family5, Fields.vx, Fields.vy]
  | ldImm _ _ => simp [encode, decodeWord_of_family6, Fields.vx]
  | addImm _ _ => simp [encode, decodeWord_of_family7, Fields.vx]
  | ldReg _ _ | orReg _ _ | andReg _ _ | xorReg _ _ | addReg _ _ | subReg _ _ | shr _ _ | subnReg _ _ | shl _ _ =>
    simp [encode, decodeWord_of_family8, selectFamily8, Fields.vx, Fields.vy]
  | sneReg _ _ _ => simp [encode, decodeWord_of_family9, Fields.vx, Fields.vy]
  | ldI _ => simp [encode, decodeWord_of_familyA]
  | jpV0 _ => simp [encode, decodeWord_of_familyB]
  | rnd _ _ => simp [encode, decodeWord_of_familyC, Fields.vx]
  | drw _ _ _ => simp [encode, decodeWord_of_familyD, Fields.vx, Fields.vy]
  | skp _ | sknp _ => simp [encode, decodeWord_of_familyE, selectFamilyE, Fields.vx]
  | ldVxDt _ | ldVxK _ | ldDtVx _ | ldStVx _ | addIVx _ | ldFVx _ | ldBVx _ | ldMemVx _ | ldVxMem _ =>
    simp [encode, decodeWord_of_familyF, selectFamilyF, Fields.vx]

/-- Settles O3: the two bytes make the instruction's word up again, and its word decodes to it. -/
theorem decodeOfEncodeIsTheInstruction : Obligations.DecodeOfEncodeIsTheInstruction := by
  unfold Obligations.DecodeOfEncodeIsTheInstruction
  intro i rest _
  have hdecode : decodeWord (wordOfBytes (highByte (encode i)) (lowByte (encode i))) = some i := by
    rw [wordOfBytes_high_low, decodeWord_encode]
  simp only [encodeBytes, List.cons_append, List.nil_append, decode_cons_cons, hdecode]

/-! ### Encode after decode -/

theorem encode_of_selectFamily0 {d : Fields} {i : Instr} (h : selectFamily0 d = some i) :
    encode i = wordXNN 0x0 d.x d.nn := by
  unfold selectFamily0 at h
  split_ifs at h with hcls hret <;> cases h
  · rw [encode, hcls]
  · rw [encode, hret]

theorem encode_of_selectFamily8 {d : Fields} {i : Instr} (h : selectFamily8 d = some i) :
    encode i = wordXYN 0x8 d.x d.y d.n := by
  unfold selectFamily8 at h
  split_ifs at h with hn hn hn hn hn hn hn hn hn <;> cases h <;> rw [encode, hn] <;> rfl

theorem encode_of_selectFamilyE {d : Fields} {i : Instr} (h : selectFamilyE d = some i) :
    encode i = wordXNN 0xE d.x d.nn := by
  unfold selectFamilyE at h
  split_ifs at h with hnn hnn <;> cases h <;> rw [encode, hnn] <;> rfl

theorem encode_of_selectFamilyF {d : Fields} {i : Instr} (h : selectFamilyF d = some i) :
    encode i = wordXNN 0xF d.x d.nn := by
  unfold selectFamilyF at h
  split_ifs at h with hnn hnn hnn hnn hnn hnn hnn hnn hnn <;> cases h <;> rw [encode, hnn] <;> rfl

/-- The leading nibbles of the families no sub-selector divides (R61). -/
theorem undivided_cases {f : Nibble} (h : f ∉ ([0x0, 0x8, 0xE, 0xF] : List Nibble)) :
    f = 0x1 ∨ f = 0x2 ∨ f = 0x3 ∨ f = 0x4 ∨ f = 0x5 ∨ f = 0x6 ∨ f = 0x7 ∨ f = 0x9 ∨ f = 0xA ∨ f = 0xB ∨ f = 0xC ∨
    f = 0xD := by
  revert f; decide

/-- Every word of an undivided family decodes, and to the instruction whose word it is. -/
theorem decodeWord_of_undivided {w : Word} (h : (fieldsOf w).f ∉ ([0x0, 0x8, 0xE, 0xF] : List Nibble)) :
    ∃ i, decodeWord w = some i ∧ encode i = w := by
  obtain ⟨hnnn, hxnn, hxyn⟩ := word_of_fields w
  rcases undivided_cases h with hf | hf | hf | hf | hf | hf | hf | hf | hf | hf | hf | hf <;>
    rw [hf] at hnnn hxnn hxyn
  · exact ⟨_, decodeWord_of_family1 hf, hnnn⟩
  · exact ⟨_, decodeWord_of_family2 hf, hnnn⟩
  · exact ⟨_, decodeWord_of_family3 hf, hxnn⟩
  · exact ⟨_, decodeWord_of_family4 hf, hxnn⟩
  · exact ⟨_, decodeWord_of_family5 hf, hxyn⟩
  · exact ⟨_, decodeWord_of_family6 hf, hxnn⟩
  · exact ⟨_, decodeWord_of_family7 hf, hxnn⟩
  · exact ⟨_, decodeWord_of_family9 hf, hxyn⟩
  · exact ⟨_, decodeWord_of_familyA hf, hnnn⟩
  · exact ⟨_, decodeWord_of_familyB hf, hnnn⟩
  · exact ⟨_, decodeWord_of_familyC hf, hxnn⟩
  · exact ⟨_, decodeWord_of_familyD hf, hxyn⟩

/-- A word that decodes to an instruction is that instruction's word. -/
theorem encode_of_decodeWord {w : Word} {i : Instr} (h : decodeWord w = some i) : encode i = w := by
  obtain ⟨-, hxnn, hxyn⟩ := word_of_fields w
  by_cases hf : (fieldsOf w).f ∈ ([0x0, 0x8, 0xE, 0xF] : List Nibble)
  · simp only [List.mem_cons, List.not_mem_nil, or_false] at hf
    rcases hf with hf | hf | hf | hf <;> rw [hf] at hxnn hxyn
    · exact (encode_of_selectFamily0 (decodeWord_of_family0 hf ▸ h)).trans hxnn
    · exact (encode_of_selectFamily8 (decodeWord_of_family8 hf ▸ h)).trans hxyn
    · exact (encode_of_selectFamilyE (decodeWord_of_familyE hf ▸ h)).trans hxnn
    · exact (encode_of_selectFamilyF (decodeWord_of_familyF hf ▸ h)).trans hxnn
  · obtain ⟨j, hj, hw⟩ := decodeWord_of_undivided hf
    cases hj.symm.trans h
    exact hw

/-- Settles O4: the two bytes are those of the word, and the word is the instruction's own. -/
theorem encodeOfDecodeIsTheBytes : Obligations.EncodeOfDecodeIsTheBytes := by
  unfold Obligations.EncodeOfDecodeIsTheBytes
  intro bytes i rest h
  obtain ⟨hi, lo, rfl, hword⟩ := decode_eq_ok h
  refine ⟨i.wellFormed_eq_true, ?_⟩
  simp [encodeBytes, encode_of_decodeWord hword]

/-! ### The words no family selects (R66) -/

/-- A selection by tests gives nothing exactly if every test fails. -/
theorem ite_some_eq_none_iff {α : Type} {p : Prop} [Decidable p] {a : α} {o : Option α} :
    (if p then some a else o) = none ↔ ¬p ∧ o = none := by
  by_cases h : p <;> simp [h]

theorem selectFamily0_eq_none_iff (d : Fields) : selectFamily0 d = none ↔ d.nn ≠ 0xE0 ∧ d.nn ≠ 0xEE := by
  simp only [selectFamily0, ite_some_eq_none_iff, and_true, ne_eq]

theorem selectFamily8_eq_none_iff (d : Fields) :
    selectFamily8 d = none ↔ d.n ∈ ([0x8, 0x9, 0xA, 0xB, 0xC, 0xD, 0xF] : List Nibble) := by
  have hgaps : ∀ n : Nibble, (¬n = 0x0 ∧ ¬n = 0x1 ∧ ¬n = 0x2 ∧ ¬n = 0x3 ∧ ¬n = 0x4 ∧ ¬n = 0x5 ∧ ¬n = 0x6 ∧ ¬n = 0x7 ∧
      ¬n = 0xE) ↔ n ∈ ([0x8, 0x9, 0xA, 0xB, 0xC, 0xD, 0xF] : List Nibble) := by decide
  simp only [selectFamily8, ite_some_eq_none_iff, and_true, hgaps]

theorem selectFamilyE_eq_none_iff (d : Fields) : selectFamilyE d = none ↔ d.nn ≠ 0x9E ∧ d.nn ≠ 0xA1 := by
  simp only [selectFamilyE, ite_some_eq_none_iff, and_true, ne_eq]

theorem selectFamilyF_eq_none_iff (d : Fields) :
    selectFamilyF d = none ↔ d.nn ∉ ([0x07, 0x0A, 0x15, 0x18, 0x1E, 0x29, 0x33, 0x55, 0x65] : List Byte) := by
  simp only [selectFamilyF, ite_some_eq_none_iff, and_true, List.mem_cons, List.not_mem_nil, or_false, not_or]

/-- Settles O6: only the four divided families have gaps, and each has the gaps of its own sub-selector. -/
theorem unknownWordsAreThoseListed : Obligations.UnknownWordsAreThoseListed := by
  unfold Obligations.UnknownWordsAreThoseListed
  intro w
  by_cases hf : (fieldsOf w).f ∈ ([0x0, 0x8, 0xE, 0xF] : List Nibble)
  · simp only [List.mem_cons, List.not_mem_nil, or_false] at hf
    rcases hf with hf | hf | hf | hf
    · simp [decodeWord_of_family0 hf, selectFamily0_eq_none_iff, hf]
    · simp [decodeWord_of_family8 hf, selectFamily8_eq_none_iff, hf]
    · simp [decodeWord_of_familyE hf, selectFamilyE_eq_none_iff, hf]
    · simp [decodeWord_of_familyF hf, selectFamilyF_eq_none_iff, hf]
  · obtain ⟨i, hi, -⟩ := decodeWord_of_undivided hf
    simp only [List.mem_cons, List.not_mem_nil, or_false, not_or] at hf
    obtain ⟨h0, h8, hE, hF⟩ := hf
    simp only [hi, reduceCtorEq, h0, h8, hE, hF, false_and, or_false]

/-! ### Words that agree on the bits of a mask -/

/-- Bits that a mask keeps are alike in two words that agree under the mask. -/
theorem extractLsb'_eq_of_xor_and {w w' m : Word} (h : (w ^^^ w') &&& m = 0) (start len : Nat)
    (hm : m.extractLsb' start len = BitVec.allOnes len) : w.extractLsb' start len = w'.extractLsb' start len := by
  have hx := congrArg (BitVec.extractLsb' start len) h
  rw [BitVec.extractLsb'_and, BitVec.extractLsb'_xor, hm, BitVec.and_allOnes] at hx
  exact BitVec.xor_eq_zero_iff.1 (hx.trans (by simp))

/-- Agreement under 0xF0FF: the leading nibble and the trailing byte. -/
theorem fields_eq_of_mask_F0FF {w w' : Word} (h : (w ^^^ w') &&& 0xF0FF = 0) :
    (fieldsOf w).f = (fieldsOf w').f ∧ (fieldsOf w).nn = (fieldsOf w').nn :=
  ⟨extractLsb'_eq_of_xor_and h 12 4 rfl, extractLsb'_eq_of_xor_and h 0 8 rfl⟩

/-- Agreement under 0xFFF0: all but the trailing nibble. -/
theorem fields_eq_of_mask_FFF0 {w w' : Word} (h : (w ^^^ w') &&& 0xFFF0 = 0) :
    (fieldsOf w).f = (fieldsOf w').f ∧ (fieldsOf w).x = (fieldsOf w').x ∧ (fieldsOf w).y = (fieldsOf w').y :=
  ⟨extractLsb'_eq_of_xor_and h 12 4 rfl, extractLsb'_eq_of_xor_and h 8 4 rfl, extractLsb'_eq_of_xor_and h 4 4 rfl⟩

/-- Agreement under 0xFF0F: all but `y`. -/
theorem fields_eq_of_mask_FF0F {w w' : Word} (h : (w ^^^ w') &&& 0xFF0F = 0) :
    (fieldsOf w).f = (fieldsOf w').f ∧ (fieldsOf w).x = (fieldsOf w').x ∧ (fieldsOf w).n = (fieldsOf w').n :=
  ⟨extractLsb'_eq_of_xor_and h 12 4 rfl, extractLsb'_eq_of_xor_and h 8 4 rfl, extractLsb'_eq_of_xor_and h 0 4 rfl⟩

/-- Agreement under 0xF00F: the leading and the trailing nibble. -/
theorem fields_eq_of_mask_F00F {w w' : Word} (h : (w ^^^ w') &&& 0xF00F = 0) :
    (fieldsOf w).f = (fieldsOf w').f ∧ (fieldsOf w).n = (fieldsOf w').n :=
  ⟨extractLsb'_eq_of_xor_and h 12 4 rfl, extractLsb'_eq_of_xor_and h 0 4 rfl⟩

theorem selectFamily8_of_shr {d : Fields} (h : d.n = 0x6) : selectFamily8 d = some (.shr d.vx d.vy) := by
  simp [selectFamily8, h]

theorem selectFamily8_of_shl {d : Fields} (h : d.n = 0xE) : selectFamily8 d = some (.shl d.vx d.vy) := by
  simp [selectFamily8, h]

/-- Settles O7: the words have the same selecting fields and differ in an operand that the meaning does not name. -/
theorem ignoredNibblesHaveNoEffect : Obligations.IgnoredNibblesHaveNoEffect := by
  unfold Obligations.IgnoredNibblesHaveNoEffect
  refine ⟨fun w w' i h hf hi => ?family0, fun w w' h hf => ?families5And9, fun w w' h hf hn => ?shifts⟩
  case family0 =>
    obtain ⟨hf', hnn⟩ := fields_eq_of_mask_F0FF h
    rw [decodeWord_of_family0 hf, selectFamily0] at hi
    rw [decodeWord_of_family0 (hf' ▸ hf), selectFamily0, ← hnn]
    split_ifs at hi ⊢ <;> cases hi
    · exact ⟨_, rfl, fun _ => rfl⟩
    · exact ⟨_, rfl, fun _ => rfl⟩
  case families5And9 =>
    obtain ⟨hf', hx, hy⟩ := fields_eq_of_mask_FFF0 h
    rcases hf with hf | hf
    · refine ⟨_, _, decodeWord_of_family5 hf, decodeWord_of_family5 (hf' ▸ hf), fun s => ?_⟩
      rw [Fields.vx, Fields.vy, Fields.vx, Fields.vy, hx, hy]; rfl
    · refine ⟨_, _, decodeWord_of_family9 hf, decodeWord_of_family9 (hf' ▸ hf), fun s => ?_⟩
      rw [Fields.vx, Fields.vy, Fields.vx, Fields.vy, hx, hy]; rfl
  case shifts =>
    obtain ⟨hf', hx, hn'⟩ := fields_eq_of_mask_FF0F h
    have hvx : (fieldsOf w').vx = (fieldsOf w).vx := congrArg regOfNibble hx.symm
    rw [decodeWord_of_family8 hf, decodeWord_of_family8 (hf' ▸ hf)]
    rcases hn with hn | hn
    · refine ⟨_, _, selectFamily8_of_shr hn, selectFamily8_of_shr (hn' ▸ hn), fun s => ?_⟩
      rw [hvx]; rfl
    · refine ⟨_, _, selectFamily8_of_shl hn, selectFamily8_of_shl (hn' ▸ hn), fun s => ?_⟩
      rw [hvx]; rfl

/-! ### The opcode table (R62) -/

/-- Two rows whose patterns differ on a bit both masks keep share no word. -/
theorem not_both_cover {r q : OpcodeRow} (h : r.pattern &&& q.mask ≠ q.pattern &&& r.mask) (w : Word) :
    ¬(r.covers w = true ∧ q.covers w = true) := by
  simp only [OpcodeRow.covers, beq_iff_eq]
  rintro ⟨hr, hq⟩
  exact h (by rw [← hr, ← hq, BitVec.and_assoc, BitVec.and_assoc, BitVec.and_comm r.mask])

/-- No two rows of the table share a word. -/
theorem opcodeTable_pairwise : opcodeTable.Pairwise fun r q => ∀ w, ¬(r.covers w = true ∧ q.covers w = true) := by
  have h : opcodeTable.Pairwise fun r q => r.pattern &&& q.mask ≠ q.pattern &&& r.mask := by decide
  exact h.imp not_both_cover

/-- A word of a row and the row's pattern agree under the row's mask. -/
theorem xor_pattern_and_mask {r : OpcodeRow} {w : Word} (h : r.covers w = true) : (w ^^^ r.pattern) &&& r.mask = 0 := by
  have hw : w &&& r.mask = r.pattern := beq_iff_eq.1 h
  rw [← hw]
  ext k hk
  cases hm : r.mask[k] <;> simp [hm]

/-- Every row is of one of three shapes: an undivided family, or a trailing byte or nibble of a divided one. -/
theorem opcodeTable_shapes : ∀ r ∈ opcodeTable,
    (r.mask = 0xF000 ∧ (fieldsOf r.pattern).f ∉ ([0x0, 0x8, 0xE, 0xF] : List Nibble)) ∨
    (r.mask = 0xF0FF ∧ (fieldsOf r.pattern).f ≠ 0x8 ∧ decodeWord r.pattern ≠ none) ∨
    (r.mask = 0xF00F ∧ (fieldsOf r.pattern).f = 0x8 ∧ decodeWord r.pattern ≠ none) := by
  decide

/-- A word that a row covers decodes. -/
theorem decodeWord_ne_none_of_covers {r : OpcodeRow} {w : Word} (hr : r ∈ opcodeTable) (h : r.covers w = true) :
    decodeWord w ≠ none := by
  have hx := xor_pattern_and_mask h
  rcases opcodeTable_shapes r hr with ⟨hm, hf⟩ | ⟨hm, hf, hd⟩ | ⟨hm, hf, hd⟩ <;> rw [hm] at hx
  · have hff : (fieldsOf w).f = (fieldsOf r.pattern).f := extractLsb'_eq_of_xor_and hx 12 4 rfl
    obtain ⟨i, hi, -⟩ := decodeWord_of_undivided (hff ▸ hf)
    simp [hi]
  · obtain ⟨hff, hnn⟩ := fields_eq_of_mask_F0FF hx
    rw [ne_eq, unknownWordsAreThoseListed] at hd ⊢
    simpa only [hff, hnn, hf, false_and, false_or] using hd
  · obtain ⟨hff, hn⟩ := fields_eq_of_mask_F00F hx
    rw [decodeWord_of_family8 hf, ne_eq, selectFamily8_eq_none_iff] at hd
    rwa [decodeWord_of_family8 (hff.trans hf), ne_eq, selectFamily8_eq_none_iff, hn]

/-- The row of an instruction covers its word (Laws/PerInstr.lean). -/
theorem tableRow_statement (i : Instr) : Laws.TableRow.Statement i := by
  cases i with
  | cls k => exact Laws.TableRow.cls k
  | ret k => exact Laws.TableRow.ret k
  | jp a => exact Laws.TableRow.jp a
  | call a => exact Laws.TableRow.call a
  | seImm x b => exact Laws.TableRow.seImm x b
  | sneImm x b => exact Laws.TableRow.sneImm x b
  | seReg x y k => exact Laws.TableRow.seReg x y k
  | ldImm x b => exact Laws.TableRow.ldImm x b
  | addImm x b => exact Laws.TableRow.addImm x b
  | ldReg x y => exact Laws.TableRow.ldReg x y
  | orReg x y => exact Laws.TableRow.orReg x y
  | andReg x y => exact Laws.TableRow.andReg x y
  | xorReg x y => exact Laws.TableRow.xorReg x y
  | addReg x y => exact Laws.TableRow.addReg x y
  | subReg x y => exact Laws.TableRow.subReg x y
  | shr x y => exact Laws.TableRow.shr x y
  | subnReg x y => exact Laws.TableRow.subnReg x y
  | shl x y => exact Laws.TableRow.shl x y
  | sneReg x y k => exact Laws.TableRow.sneReg x y k
  | ldI a => exact Laws.TableRow.ldI a
  | jpV0 a => exact Laws.TableRow.jpV0 a
  | rnd x b => exact Laws.TableRow.rnd x b
  | drw x y k => exact Laws.TableRow.drw x y k
  | skp x => exact Laws.TableRow.skp x
  | sknp x => exact Laws.TableRow.sknp x
  | ldVxDt x => exact Laws.TableRow.ldVxDt x
  | ldVxK x => exact Laws.TableRow.ldVxK x
  | ldDtVx x => exact Laws.TableRow.ldDtVx x
  | ldStVx x => exact Laws.TableRow.ldStVx x
  | addIVx x => exact Laws.TableRow.addIVx x
  | ldFVx x => exact Laws.TableRow.ldFVx x
  | ldBVx x => exact Laws.TableRow.ldBVx x
  | ldMemVx x => exact Laws.TableRow.ldMemVx x
  | ldVxMem x => exact Laws.TableRow.ldVxMem x

/-- The first row that covers a word is the only one. -/
theorem find?_covers_of_mem {r : OpcodeRow} {w : Word} (hr : r ∈ opcodeTable) (h : r.covers w = true) :
    opcodeTable.find? (fun q => q.covers w) = some r := by
  obtain ⟨q, hq⟩ := Option.isSome_iff_exists.1 ((List.find?_isSome (p := fun q : OpcodeRow => q.covers w)).2 ⟨r, hr, h⟩)
  have hcovers : q.covers w = true := List.find?_some (p := fun q : OpcodeRow => q.covers w) hq
  by_contra hne
  have hrq : r ≠ q := fun e => hne (e ▸ hq)
  have hsymm : Std.Symm fun r q : OpcodeRow => ∀ w, ¬(r.covers w = true ∧ q.covers w = true) :=
    ⟨fun _ _ hapart w hw => hapart w hw.symm⟩
  exact opcodeTable_pairwise.forall hr (List.mem_of_find?_eq_some hq) hrq w ⟨h, hcovers⟩

/-- Settles O5: a word that decodes is covered by its instruction's row and by no other; one that does not, by none. -/
theorem selectionAgreesWithOpcodeTable : Obligations.SelectionAgreesWithOpcodeTable := by
  unfold Obligations.SelectionAgreesWithOpcodeTable
  refine ⟨opcodeTable_pairwise, fun w => ?_⟩
  rcases hd : decodeWord w with _ | i
  · have hnone : opcodeTable.find? (fun r => r.covers w) = none :=
      List.find?_eq_none.2 fun r hr hc => decodeWord_ne_none_of_covers hr hc hd
    rw [hnone]; rfl
  · obtain ⟨r, hr, hname, hcovers⟩ := tableRow_statement i
    rw [encode_of_decodeWord hd] at hcovers
    rw [find?_covers_of_mem hr hcovers, Option.map_some, Option.map_some, hname]

/-- Settles O2: each word is split into its fields and selected by evaluation (R62). -/
theorem writtenWordsDecode : Obligations.WrittenWordsDecode := by
  unfold Obligations.WrittenWordsDecode
  decide

end Sys2Proof
end

section
/-! PROOFS. The statements about memory as data, the range check and the fetch (20_memory.md, 40_control_flow.md). -/

namespace Sys2Proof

namespace Machine

/-! ### A canonical memory is the set of its changed bytes -/

/-- An address no entry lists reads as at reset. -/
theorem Memory.read_of_unlisted {m : Memory} {a : Nat} (h : ∀ c ∈ m, c.1 ≠ a) : m.read a = resetByte a := by
  induction m with
  | nil => rfl
  | cons d rest ih =>
    obtain ⟨hd, hrest⟩ := List.forall_mem_cons.1 h
    rw [Memory.read, if_neg hd, ih hrest]

/-- An entry of a memory with rising addresses is what its address reads as. -/
theorem Memory.read_of_mem {m : Memory} (h : m.Pairwise fun c d => c.1 < d.1) {c : Host.Cell} (hc : c ∈ m) :
    m.read c.1 = c.2 := by
  induction m with
  | nil => cases hc
  | cons d rest ih =>
    obtain ⟨hd, hrest⟩ := List.pairwise_cons.1 h
    rcases List.mem_cons.1 hc with rfl | hc
    · rw [Memory.read, if_pos rfl]
    · rw [Memory.read, if_neg (Nat.ne_of_lt (hd c hc)), ih hrest hc]

/-- The entries of a canonical memory are the bytes that differ from the reset contents. -/
theorem Memory.mem_iff_read {m : Memory} (h : m.wf) (c : Host.Cell) : c ∈ m ↔ m.read c.1 = c.2 ∧ c.2 ≠ resetByte c.1 := by
  constructor
  · exact fun hc => ⟨Memory.read_of_mem h.1 hc, (h.2 c hc).2⟩
  · rintro ⟨hread, hne⟩
    by_contra hc
    refine hne (hread ▸ Memory.read_of_unlisted fun d hd hda => hc ?_)
    have hdc : d = c := Prod.ext hda ((Memory.read_of_mem h.1 hd).symm.trans (hda ▸ hread))
    exact hdc ▸ hd

/-- Canonical memories that read alike list the same entries in the same order. -/
theorem Memory.eq_of_read_eq {m m' : Memory} (h : m.wf) (h' : m'.wf) (hread : ∀ a, m.read a = m'.read a) : m = m' := by
  have hirrefl : Std.Irrefl fun c d : Host.Cell => c.1 < d.1 := ⟨fun _ => Nat.lt_irrefl _⟩
  have hantisymm : Std.Antisymm fun c d : Host.Cell => c.1 < d.1 :=
    ⟨fun _ _ hcd hdc => absurd hdc (Nat.lt_asymm hcd)⟩
  refine h.1.eq_of_mem_iff h'.1 fun c => ?_
  rw [Memory.mem_iff_read h, Memory.mem_iff_read h', hread]

/-! ### The range check, as a test of the whole access (R45) -/

theorem checkRange_of_le {base count : Nat} (h : base + count ≤ 0x1000) : checkRange base count = none :=
  checkRange_eq_none_iff.2 h

theorem checkRange_of_gt {base count : Nat} (h : base + count > 0x1000) :
    checkRange base count = some (.memoryOutOfBounds (max base 0x1000)) :=
  (checkRange_eq_some_iff _).2 ⟨h, rfl⟩

/-! ### A step that does not reach an instruction -/

theorem step_of_fetchInstr_error {s : State} {f : Fault} (h : s.fetchInstr = .error f) : step s = .fault f := by
  rw [step, h]; rfl

end Machine

open Machine

/-- Settles O13: a read after a write is the law of memory, and a write of memory is no write of another field (R44). -/
theorem memWriteChangesOneByte : Obligations.MemWriteChangesOneByte := by
  unfold Obligations.MemWriteChangesOneByte
  intro s a b _
  refine ⟨?same, fun c hc => ?other, rfl⟩
  case same => rw [State.readByte_setMem_write, if_pos rfl]
  case other => rw [State.readByte_setMem_write, if_neg hc]

/-- Settles O14: a canonical memory's entries are determined by what it reads as, and rise by address. -/
theorem canonicalMemoryIsDeterminedByItsBytes : Obligations.CanonicalMemoryIsDeterminedByItsBytes := by
  unfold Obligations.CanonicalMemoryIsDeterminedByItsBytes
  exact ⟨fun m m' => Memory.eq_of_read_eq, fun m a b h ha => Memory.wf_write h (Nat.lt_succ_of_le ha) b⟩

/-- Settles O15: the highest byte of the access decides, and the lowest one outside is 0x1000 or the base (R45). -/
theorem rangeCheckIsAllOrNothing : Obligations.RangeCheckIsAllOrNothing := by
  unfold Obligations.RangeCheckIsAllOrNothing
  intro base count hcount
  constructor
  · rw [checkRange_eq_none_iff]
    constructor
    · intro h k hk; omega
    · intro h
      have hlast := h (count - 1) (by omega)
      omega
  · intro f hf
    obtain ⟨hgt, rfl⟩ := (checkRange_eq_some_iff f).1 hf
    exact ⟨_, rfl, by omega, by omega, by omega, fun b _ _ _ => by omega⟩

/-- Settles O9: the fetch tests the bound and puts the two bytes together, high byte first (R46, R49). -/
theorem fetchIsBigEndianAndBounded : Obligations.FetchIsBigEndianAndBounded := by
  unfold Obligations.FetchIsBigEndianAndBounded
  refine fun s => ⟨fun h => ⟨State.fetch_of_gt h, ?outside⟩, fun h => ⟨_, State.fetch_of_le h, toNat_wordOfBytes _ _⟩⟩
  case outside => exact step_of_fetchInstr_error (State.fetchInstr_eq_error_iff.2 (.inl (State.fetch_of_gt h)))

/-- Settles O8: the two bytes are the fetched word, so the decoded instruction is the fetched one (R71). -/
theorem stepRunsTheDecodedInstruction : Obligations.StepRunsTheDecodedInstruction := by
  unfold Obligations.StepRunsTheDecodedInstruction
  intro s i hpc _ hdecode
  obtain ⟨hi, lo, hbytes, hword⟩ := decode_eq_ok hdecode
  obtain ⟨rfl, rfl⟩ : s.readByte s.pc.toNat = hi ∧ s.readByte (s.pc.toNat + 1) = lo := by simpa using hbytes
  exact step_of_fetchInstr (State.fetchInstr_eq_ok_iff.2 ⟨_, State.fetch_of_le hpc, hword⟩)

end Sys2Proof
end

section
/-! PROOFS. The statements about CALL, RET, the jump with an offset, the register skips and the self-jump (40_control_flow.md). -/

namespace Sys2Proof

namespace Machine

/-! ### What moving the stack and `pc` leaves alone -/

/-- A write of the stack is in the frame that leaves the stack out. -/
theorem onlyStack_setStack_setPc (s : State) (l : List Word) (a : Word) : OnlyStack s ((s.setStack l).setPc a) := by
  refine ⟨fun r _ => rfl, rfl, ⟨rfl, rfl⟩, ?display, ?keys, ?memory⟩
  case display => exact fun x y => rfl
  case keys => exact fun k => rfl
  case memory => exact fun b => rfl

/-! ### The meanings, by what the stack holds -/

theorem exec_call_of_lt {s : State} (nnn : Addr12) (h : s.stack.length < Config.stackCapacity) :
    exec (.call nnn) s = .next ((s.setStack (s.stack ++ [s.pc + 2])).setPc (zextAddr nnn)) := by
  have hpush : s.push s.nextPc = .ok (s.setStack (s.stack ++ [s.pc + 2])) := if_neg (Nat.not_le.2 h)
  simp only [exec, execCall, hpush]

theorem exec_call_of_ge {s : State} (nnn : Addr12) (h : s.stack.length ≥ Config.stackCapacity) :
    exec (.call nnn) s = .fault (.stackOverflow s.pc) := by
  have hpush : s.push s.nextPc = .error (.stackOverflow s.pc) := if_pos h
  simp only [exec, execCall, hpush, raise]

theorem exec_ret_of_concat {s : State} {rest : List Word} {a : Word} (skip : Nibble) (h : s.stack = rest ++ [a]) :
    exec (.ret skip) s = .next ((s.setStack rest).setPc a) := by
  simp only [exec, execRet, State.pop_of_concat h]

theorem exec_ret_of_nil {s : State} (skip : Nibble) (h : s.stack = []) :
    exec (.ret skip) s = .fault (.stackUnderflow s.pc) := by
  simp only [exec, execRet, State.pop_of_nil h, raise]

/-- Where a test decides between an answer and an error, an answer means that the test held. -/
theorem eq_next_of_test {o : Host.Outcome State Fault Refusal} {p : Prop} {t u : State} {f : Fault}
    (hyes : p → o = .next u) (hno : ¬p → o = .fault f) (h : o = .next t) : p ∧ t = u := by
  by_cases hp : p
  · exact ⟨hp, Host.Outcome.next.inj (h.symm.trans (hyes hp))⟩
  · cases h.symm.trans (hno hp)

/-- A CALL that ends `Ok` found room, pushed the address after it and jumped. -/
theorem exec_call_eq_next {s t : State} {nnn : Addr12} (h : exec (.call nnn) s = .next t) :
    s.stack.length < Config.stackCapacity ∧ t = (s.setStack (s.stack ++ [s.pc + 2])).setPc (zextAddr nnn) :=
  eq_next_of_test (exec_call_of_lt nnn) (fun hfull => exec_call_of_ge nnn (Nat.not_lt.1 hfull)) h

/-- A RET that ends `Ok` took the last entry off the stack and went there. -/
theorem exec_ret_eq_next {s t : State} {skip : Nibble} (h : exec (.ret skip) s = .next t) :
    ∃ rest a, s.stack = rest ++ [a] ∧ t = (s.setStack rest).setPc a := by
  rcases List.eq_nil_or_concat' s.stack with hnil | ⟨rest, a, hstack⟩
  · rw [exec_ret_of_nil skip hnil] at h
    cases h
  · rw [exec_ret_of_concat skip hstack] at h
    exact ⟨rest, a, hstack, (Host.Outcome.next.inj h).symm⟩

/-! ### The meanings that only move `pc` -/

theorem exec_jpV0 (nnn : Addr12) (s : State) :
    exec (.jpV0 nnn) s = .next (s.setPc (zextAddr nnn + zextByte (s.getV 0))) := rfl

theorem exec_seReg (x y : RegIx) (k : Nibble) (s : State) :
    exec (.seReg x y k) s = .next (s.skipIf (s.getV x == s.getV y)) := rfl

theorem exec_sneReg (x y : RegIx) (k : Nibble) (s : State) :
    exec (.sneReg x y k) s = .next (s.skipIf (s.getV x != s.getV y)) := rfl

/-- The sum of a 12-bit address and a byte needs 13 bits, so 16 hold it (R83). -/
theorem toNat_jump_offset (nnn : Addr12) (b : Byte) : (zextAddr nnn + zextByte b).toNat = nnn.toNat + b.toNat := by
  have hn := nnn.isLt
  have hb := b.isLt
  rw [BitVec.toNat_add, toNat_zextAddr, toNat_zextByte]
  omega

/-! ### A run that stands still -/

/-- A state whose step is itself stays for any number of steps. -/
theorem run_of_step_self {s : State} (h : step s = .next s) (k : Nat) : Sys2Proof.core.run k s = .next s := by
  induction k with
  | zero => rfl
  | succ k ih =>
    have hcore : Sys2Proof.core.step s = .next s := h
    simp only [Host.Core.run, hcore, ih]

end Machine

open Machine

/-- Settles O17: JP V0 is one write of `pc`, and the sum does not overflow 16 bits (R83). -/
theorem jumpWithOffsetAddsV0 : Obligations.JumpWithOffsetAddsV0 := by
  unfold Obligations.JumpWithOffsetAddsV0
  exact fun nnn s => ⟨_, exec_jpV0 nnn s, toNat_jump_offset nnn (s.getV 0), onlyRegs_setPc [] s _⟩

/-- Settles O18: the room on the stack decides between the push and the error (R77). -/
theorem callPushesTheNextAddress : Obligations.CallPushesTheNextAddress := by
  unfold Obligations.CallPushesTheNextAddress
  refine fun nnn s => ⟨fun h => ⟨_, exec_call_of_lt nnn h, ?target, rfl, onlyStack_setStack_setPc s _ _⟩, exec_call_of_ge nnn⟩
  case target => rw [State.setPc_pc, toNat_zextAddr]

/-- Settles O19: the last entry of the stack goes to `pc`, and an empty stack is the error (R75). -/
theorem returnPopsIntoPc : Obligations.ReturnPopsIntoPc := by
  unfold Obligations.ReturnPopsIntoPc
  exact fun skip s => ⟨fun rest a h => ⟨_, exec_ret_of_concat skip h, rfl, rfl, onlyStack_setStack_setPc s _ _⟩,
    exec_ret_of_nil skip⟩

/-- Settles O20: RET takes off what CALL put on (R85). -/
theorem callThenReturnComesBack : Obligations.CallThenReturnComesBack := by
  unfold Obligations.CallThenReturnComesBack
  intro nnn skip s t u hcall hstack
  obtain ⟨-, rfl⟩ := exec_call_eq_next hcall
  exact ⟨_, exec_ret_of_concat skip hstack, rfl, rfl, onlyStack_setStack_setPc u _ _⟩

/-- Settles O22: each register skip is one `SkipIf` on its comparison (R81, R82). -/
theorem registerSkipsCompare : Obligations.RegisterSkipsCompare := by
  unfold Obligations.RegisterSkipsCompare
  refine fun x y skip s => ⟨?se, ?sne⟩
  case se => exact ⟨_, exec_seReg x y skip s, onlyRegs_skipIf [] s _, s.skipIf_beq_pc _ _⟩
  case sne => exact ⟨_, exec_sneReg x y skip s, onlyRegs_skipIf [] s _, s.skipIf_bne_pc _ _⟩

/-- Settles O23: the jump writes `pc` with the value it has, so the step is the identity there (R88). -/
theorem selfJumpRunsForEver : Obligations.SelfJumpRunsForEver := by
  unfold Obligations.SelfJumpRunsForEver
  intro s nnn hfetch hpc k
  have haddr : zextAddr nnn = s.pc := BitVec.eq_of_toNat_eq ((toNat_zextAddr nnn).trans hpc.symm)
  have hself : step s = .next s := by
    rw [step_of_fetchInstr hfetch, exec_jp, haddr]; rfl
  exact ⟨⟨s, run_of_step_self hself k⟩, run_of_step_self hself k⟩

end Sys2Proof
end

section
/-! PROOFS. The statements about the logic operations, the arithmetic with a flag, the shifts (41_register_alu.md) and the arithmetic
of `I` (42_index_memory.md). -/

namespace Sys2Proof

namespace Machine

/-! ### Frames in a row, and what a result and a flag leave alone -/

/-- Two updates in a row that each keep a frame keep it together. -/
theorem OnlyRegs.trans {rs : List RegIx} {s t u : State} (hst : OnlyRegs rs s t) (htu : OnlyRegs rs t u) :
    OnlyRegs rs s u := by
  obtain ⟨hv, hi, hstack, ⟨hdt, hst'⟩, hg, hk, hm⟩ := hst
  obtain ⟨hv', hi', hstack', ⟨hdt', hst''⟩, hg', hk', hm'⟩ := htu
  exact ⟨fun r hr => (hv' r hr).trans (hv r hr), hi'.trans hi, hstack'.trans hstack, ⟨hdt'.trans hdt, hst''.trans hst'⟩,
    fun x y => (hg' x y).trans (hg x y), fun k => (hk' k).trans (hk k), fun b => (hm' b).trans (hm b)⟩

/-- A result and a flag are two register writes. -/
theorem onlyRegs_setWithFlag (s : State) (x : RegIx) (b f : Byte) : OnlyRegs [x, VF] s (s.setWithFlag x b f) :=
  (onlyRegs_setV (by simp) s b).trans (onlyRegs_setV (by simp) (s.setV x b) f)

/-- The state after an instruction that writes a result and a flag and goes on: the result where it is not overwritten, the flag, `pc`
and the frame (R90). -/
theorem setWithFlag_fallthrough_spec (s : State) (x : RegIx) (b f : Byte) :
    (x ≠ VF → (s.setWithFlag x b f).fallthrough.getV x = b) ∧ (s.setWithFlag x b f).fallthrough.getV VF = f ∧
    (s.setWithFlag x b f).fallthrough.pc = s.pc + 2 ∧ OnlyRegs [x, VF] s (s.setWithFlag x b f).fallthrough := by
  refine ⟨fun hx => ?result, ?flag, rfl, (onlyRegs_setWithFlag s x b f).fallthrough⟩
  case result => rw [State.fallthrough_getV, State.setWithFlag_getV, if_neg hx, if_pos rfl]
  case flag => rw [State.fallthrough_getV, State.setWithFlag_getV, if_pos rfl]

/-! ### Shifts by one, as numbers (R101, R103) -/

theorem toNat_shiftRight_one (b : Byte) : (b >>> 1).toNat = b.toNat / 2 := by
  rw [BitVec.toNat_ushiftRight, Nat.shiftRight_eq_div_pow, Nat.pow_one]

theorem toNat_shiftLeft_one (b : Byte) : (b <<< 1).toNat = b.toNat * 2 % 256 := by
  rw [BitVec.toNat_shiftLeft, Nat.shiftLeft_eq]

/-! ### The address of a glyph (R112) -/

theorem toNat_glyphAddress (b : Byte) : (glyphAddress b).toNat = 5 * (b.toNat % 16) := by
  have hmul : (glyphAddress b).toNat = 5 * (b.toNat % 16) % 65536 := by
    rw [glyphAddress, BitVec.toNat_mul, toNat_zextByte, toNat_and_0F]; rfl
  omega

/-! ### The meanings, as one update each -/

theorem exec_orReg (x y : RegIx) (s : State) :
    exec (.orReg x y) s = .next (s.setV x (s.getV x ||| s.getV y)).fallthrough := rfl

theorem exec_andReg (x y : RegIx) (s : State) :
    exec (.andReg x y) s = .next (s.setV x (s.getV x &&& s.getV y)).fallthrough := rfl

theorem exec_xorReg (x y : RegIx) (s : State) :
    exec (.xorReg x y) s = .next (s.setV x (s.getV x ^^^ s.getV y)).fallthrough := rfl

theorem exec_addReg (x y : RegIx) (s : State) : exec (.addReg x y) s =
    .next (s.setWithFlag x (s.getV x + s.getV y) (carryFlag (s.getV x) (s.getV y))).fallthrough := rfl

theorem exec_subReg (x y : RegIx) (s : State) : exec (.subReg x y) s =
    .next (s.setWithFlag x (s.getV x - s.getV y) (noBorrowFlag (s.getV x) (s.getV y))).fallthrough := rfl

theorem exec_subnReg (x y : RegIx) (s : State) : exec (.subnReg x y) s =
    .next (s.setWithFlag x (s.getV y - s.getV x) (noBorrowFlag (s.getV y) (s.getV x))).fallthrough := rfl

theorem exec_shr (x y : RegIx) (s : State) : exec (.shr x y) s =
    .next (s.setWithFlag x (s.getV x >>> 1) (shiftedOutRight (s.getV x))).fallthrough := rfl

theorem exec_shl (x y : RegIx) (s : State) : exec (.shl x y) s =
    .next (s.setWithFlag x (s.getV x <<< 1) (shiftedOutLeft (s.getV x))).fallthrough := rfl

theorem exec_addIVx (x : RegIx) (s : State) :
    exec (.addIVx x) s = .next (s.setI (s.i + zextByte (s.getV x))).fallthrough := rfl

theorem exec_ldFVx (x : RegIx) (s : State) : exec (.ldFVx x) s = .next (s.setI (glyphAddress (s.getV x))).fallthrough := rfl

end Machine

open Machine

/-- Settles O27: each operation is one register write, and its value acts on each bit alone (R96, R97, R98). -/
theorem logicOperationsActBitwise : Obligations.LogicOperationsActBitwise := by
  unfold Obligations.LogicOperationsActBitwise
  refine fun x y s => ⟨?or, ?and, ?xor⟩
  case or =>
    obtain ⟨hvalue, hpc, hframe⟩ := setV_fallthrough_spec s x (s.getV x ||| s.getV y)
    exact ⟨_, exec_orReg x y s, hpc, hframe, fun b => by rw [hvalue, BitVec.getLsbD_or]⟩
  case and =>
    obtain ⟨hvalue, hpc, hframe⟩ := setV_fallthrough_spec s x (s.getV x &&& s.getV y)
    exact ⟨_, exec_andReg x y s, hpc, hframe, fun b => by rw [hvalue, BitVec.getLsbD_and]⟩
  case xor =>
    obtain ⟨hvalue, hpc, hframe⟩ := setV_fallthrough_spec s x (s.getV x ^^^ s.getV y)
    exact ⟨_, exec_xorReg x y s, hpc, hframe, fun b => by rw [hvalue, BitVec.getLsbD_xor]⟩

/-- Settles O28: the sum and its carry, the carry written last (R99). -/
theorem addSetsCarry : Obligations.AddSetsCarry := by
  unfold Obligations.AddSetsCarry
  intro x y s
  obtain ⟨hresult, hflag, hpc, hframe⟩ :=
    setWithFlag_fallthrough_spec s x (s.getV x + s.getV y) (carryFlag (s.getV x) (s.getV y))
  exact ⟨_, exec_addReg x y s, fun hx => by rw [hresult hx, BitVec.toNat_add], by rw [hflag, toNat_carryFlag], hpc, hframe⟩

/-- Settles O29: the difference and its "no borrow", in either order of the operands (R100, R102). -/
theorem subtractionsSetNoBorrow : Obligations.SubtractionsSetNoBorrow := by
  unfold Obligations.SubtractionsSetNoBorrow
  refine fun x y s => ⟨?sub, ?subn⟩
  case sub =>
    obtain ⟨hresult, hflag, hpc, hframe⟩ :=
      setWithFlag_fallthrough_spec s x (s.getV x - s.getV y) (noBorrowFlag (s.getV x) (s.getV y))
    exact ⟨_, exec_subReg x y s, fun hx => by rw [hresult hx, toNat_byte_sub], by rw [hflag, toNat_noBorrowFlag], hpc, hframe⟩
  case subn =>
    obtain ⟨hresult, hflag, hpc, hframe⟩ :=
      setWithFlag_fallthrough_spec s x (s.getV y - s.getV x) (noBorrowFlag (s.getV y) (s.getV x))
    exact ⟨_, exec_subnReg x y s, fun hx => by rw [hresult hx, toNat_byte_sub], by rw [hflag, toNat_noBorrowFlag], hpc, hframe⟩

/-- Settles O30: the shifted byte and the bit it drops; `V[y]` stands in neither (R101, R103). -/
theorem shiftsSetTheDroppedBit : Obligations.ShiftsSetTheDroppedBit := by
  unfold Obligations.ShiftsSetTheDroppedBit
  refine fun x y s => ⟨?right, ?left⟩
  case right =>
    obtain ⟨hresult, hflag, hpc, hframe⟩ :=
      setWithFlag_fallthrough_spec s x (s.getV x >>> 1) (shiftedOutRight (s.getV x))
    exact ⟨_, exec_shr x y s, fun hx => by rw [hresult hx, toNat_shiftRight_one], by rw [hflag, toNat_shiftedOutRight],
      hpc, hframe⟩
  case left =>
    obtain ⟨hresult, hflag, hpc, hframe⟩ :=
      setWithFlag_fallthrough_spec s x (s.getV x <<< 1) (shiftedOutLeft (s.getV x))
    exact ⟨_, exec_shl x y s, fun hx => by rw [hresult hx, toNat_shiftLeft_one], by rw [hflag, toNat_shiftedOutLeft],
      hpc, hframe⟩

/-- Settles O34: each is one write of `I`, of a sum modulo 2^16 and of five times the low nibble (R111, R112). -/
theorem indexArithmetic : Obligations.IndexArithmetic := by
  unfold Obligations.IndexArithmetic
  refine fun x s => ⟨?add, ?glyph⟩
  case add =>
    obtain ⟨hi, hpc, hframe⟩ := setI_fallthrough_spec s (s.i + zextByte (s.getV x))
    exact ⟨_, exec_addIVx x s, by rw [hi, BitVec.toNat_add, toNat_zextByte], hpc, hframe⟩
  case glyph =>
    obtain ⟨hi, hpc, hframe⟩ := setI_fallthrough_spec s (glyphAddress (s.getV x))
    exact ⟨_, exec_ldFVx x s, by rw [hi, toNat_glyphAddress], hpc, hframe⟩

end Sys2Proof
end

section
/-! PROOFS. The statements about the transfers between registers and memory (42_index_memory.md). -/

namespace Sys2Proof

namespace Machine

/-! ### What a transfer leaves alone -/

/-- Stored bytes are in the frame of the addresses they take. -/
theorem onlyBytes_storeBytes (s : State) (a : Nat) (bs : List Byte) : OnlyBytes a bs.length s (s.storeBytes a bs) := by
  refine ⟨fun r _ => s.storeBytes_getV a bs r, s.storeBytes_i a bs, s.storeBytes_stack a bs, ⟨rfl, rfl⟩, ?display, ?keys,
    ?memory⟩
  case display => exact fun x y => by rw [s.storeBytes_display a bs]
  case keys => exact fun k => s.storeBytes_getKey a bs k
  case memory => exact fun b hb => s.readByte_storeBytes_of_outside a bs b hb

/-- Going on to the next instruction keeps a frame: `OnlyBytes` says nothing of `pc`. -/
theorem OnlyBytes.fallthrough {a count : Nat} {s t : State} (h : OnlyBytes a count s t) :
    OnlyBytes a count s t.fallthrough := h

/-- New register contents are in the frame of the registers they change. -/
theorem onlyRegs_setRegs {rs : List RegIx} {s : State} {v : Vector Byte 16} (h : ∀ r : RegIx, r ∉ rs → v[r.val] = s.getV r) :
    OnlyRegs rs s (s.setRegs v) := by
  refine ⟨h, s.setRegs_i v, s.setRegs_stack v, ⟨rfl, rfl⟩, ?display, ?keys, ?memory⟩
  case display => exact fun x y => by rw [s.setRegs_display v]
  case keys => exact fun k => s.setRegs_getKey v k
  case memory => exact fun b => s.setRegs_readByte v b

/-! ### The meanings, by whether the access is inside memory -/

theorem exec_ldBVx_of_le {s : State} (x : RegIx) (h : s.i.toNat + 3 ≤ 0x1000) :
    exec (.ldBVx x) s = .next (s.storeBytes s.i.toNat (decimalDigits (s.getV x))).fallthrough := by
  simp only [exec, execLdBVx, checkRange_of_le h]

theorem exec_ldBVx_of_gt {s : State} (x : RegIx) (h : s.i.toNat + 3 > 0x1000) :
    exec (.ldBVx x) s = .fault (.memoryOutOfBounds (max s.i.toNat 0x1000)) := by
  simp only [exec, execLdBVx, checkRange_of_gt h, raise]

theorem exec_ldMemVx_of_le {s : State} {x : RegIx} (h : s.i.toNat + (x.val + 1) ≤ 0x1000) :
    exec (.ldMemVx x) s = .next (s.storeBytes s.i.toNat (s.regsUpTo x)).fallthrough := by
  simp only [exec, execLdMemVx, checkRange_of_le h]

theorem exec_ldMemVx_of_gt {s : State} {x : RegIx} (h : s.i.toNat + (x.val + 1) > 0x1000) :
    exec (.ldMemVx x) s = .fault (.memoryOutOfBounds (max s.i.toNat 0x1000)) := by
  simp only [exec, execLdMemVx, checkRange_of_gt h, raise]

theorem exec_ldVxMem_of_le {s : State} {x : RegIx} (h : s.i.toNat + (x.val + 1) ≤ 0x1000) :
    exec (.ldVxMem x) s = .next (s.setRegs (s.regsLoaded s.i.toNat x)).fallthrough := by
  simp only [exec, execLdVxMem, checkRange_of_le h]

theorem exec_ldVxMem_of_gt {s : State} {x : RegIx} (h : s.i.toNat + (x.val + 1) > 0x1000) :
    exec (.ldVxMem x) s = .fault (.memoryOutOfBounds (max s.i.toNat 0x1000)) := by
  simp only [exec, execLdVxMem, checkRange_of_gt h, raise]

/-- An FX33 that ends `Ok` stored three digits inside memory. -/
theorem exec_ldBVx_eq_next {s t : State} {x : RegIx} (h : exec (.ldBVx x) s = .next t) :
    s.i.toNat + 3 ≤ 0x1000 ∧ t = (s.storeBytes s.i.toNat (decimalDigits (s.getV x))).fallthrough :=
  eq_next_of_test (exec_ldBVx_of_le x) (fun hout => exec_ldBVx_of_gt x (Nat.not_le.1 hout)) h

/-- An FX55 that ends `Ok` stored `V0` to `Vx` inside memory. -/
theorem exec_ldMemVx_eq_next {s t : State} {x : RegIx} (h : exec (.ldMemVx x) s = .next t) :
    s.i.toNat + (x.val + 1) ≤ 0x1000 ∧ t = (s.storeBytes s.i.toNat (s.regsUpTo x)).fallthrough :=
  eq_next_of_test exec_ldMemVx_of_le (fun hout => exec_ldMemVx_of_gt (Nat.not_le.1 hout)) h

/-- An FX65 that ends `Ok` loaded `V0` to `Vx` from inside memory. -/
theorem exec_ldVxMem_eq_next {s t : State} {x : RegIx} (h : exec (.ldVxMem x) s = .next t) :
    s.i.toNat + (x.val + 1) ≤ 0x1000 ∧ t = (s.setRegs (s.regsLoaded s.i.toNat x)).fallthrough :=
  eq_next_of_test exec_ldVxMem_of_le (fun hout => exec_ldVxMem_of_gt (Nat.not_le.1 hout)) h

/-! ### What is stored, and what is loaded -/

/-- The three bytes stored are the decimal digits of a byte (R113). -/
theorem decimalDigits_spec (b : Byte) : ∃ hundreds tens units : Byte, decimalDigits b = [hundreds, tens, units] ∧
    b.toNat = 100 * hundreds.toNat + 10 * tens.toNat + units.toNat ∧ hundreds.toNat ≤ 2 ∧ tens.toNat ≤ 9 ∧
    units.toNat ≤ 9 := by
  have hb := b.isLt
  refine ⟨_, _, _, rfl, ?_⟩
  have hundreds : (b / 100).toNat = b.toNat / 100 := BitVec.toNat_udiv
  have tens : ((b / 10) % 10).toNat = b.toNat / 10 % 10 := by rw [BitVec.toNat_umod, BitVec.toNat_udiv]; rfl
  have units : (b % 10).toNat = b.toNat % 10 := BitVec.toNat_umod
  omega

/-- The byte `k` places after the first one stored by FX55 is `V[k]`. -/
theorem readByte_storeBytes_regsUpTo (s : State) (a : Nat) {k x : RegIx} (h : k ≤ x) :
    (s.storeBytes a (s.regsUpTo x)).readByte (a + k.val) = s.getV k := by
  have hk : k.val < (s.regsUpTo x).length := by rw [State.length_regsUpTo]; exact Nat.lt_succ_of_le h
  rw [State.readByte_storeBytes_of_lt s a _ _ hk, State.getElem_regsUpTo, State.getV]

/-- The registers after FX65: from memory up to `Vx`, as before above it. -/
theorem getV_setRegs_regsLoaded (s : State) (a : Nat) (x k : RegIx) :
    (s.setRegs (s.regsLoaded a x)).getV k = if k ≤ x then s.readByte (a + k.val) else s.getV k := by
  rw [State.setRegs_getV, State.getElem_regsLoaded]; rfl

end Machine

open Machine

/-- Settles O35: the digits are stored as three bytes of one transfer (R113). -/
theorem decimalDigitsAreStored : Obligations.DecimalDigitsAreStored := by
  unfold Obligations.DecimalDigitsAreStored
  refine fun x s => ⟨fun hin => ?inside, fun hout => exec_ldBVx_of_gt x (by omega)⟩
  case inside =>
    obtain ⟨hundreds, tens, units, hdigits, hsum, hle⟩ := decimalDigits_spec (s.getV x)
    refine ⟨_, exec_ldBVx_of_le x (by omega), ?_⟩
    rw [hdigits]
    have hread := s.readByte_storeBytes_of_lt s.i.toNat [hundreds, tens, units]
    have h0 : (s.storeBytes s.i.toNat [hundreds, tens, units]).fallthrough.readByte s.i.toNat = hundreds := hread 0 (by simp)
    have h1 : (s.storeBytes s.i.toNat [hundreds, tens, units]).fallthrough.readByte (s.i.toNat + 1) = tens := hread 1 (by simp)
    have h2 : (s.storeBytes s.i.toNat [hundreds, tens, units]).fallthrough.readByte (s.i.toNat + 2) = units := hread 2 (by simp)
    rw [h0, h1, h2]
    obtain ⟨hh, ht, hu⟩ := hle
    exact ⟨hsum, hh, ht, hu, rfl, (onlyBytes_storeBytes s s.i.toNat [hundreds, tens, units]).fallthrough⟩

/-- Settles O36: the registers are stored as consecutive bytes of one transfer (R114). -/
theorem registersAreStored : Obligations.RegistersAreStored := by
  unfold Obligations.RegistersAreStored
  refine fun x s => ⟨fun hin => ⟨_, exec_ldMemVx_of_le (by omega), fun k hk => ?stored, rfl, ?frame⟩,
    fun hout => exec_ldMemVx_of_gt (by omega)⟩
  case stored => exact readByte_storeBytes_regsUpTo s s.i.toNat hk
  case frame =>
    rw [← s.length_regsUpTo x]
    exact (onlyBytes_storeBytes s s.i.toNat (s.regsUpTo x)).fallthrough

/-- Settles O37: the registers up to `Vx` are read from consecutive bytes, and those above it are as before (R115). -/
theorem registersAreLoaded : Obligations.RegistersAreLoaded := by
  unfold Obligations.RegistersAreLoaded
  refine fun x s => ⟨fun hin => ⟨_, exec_ldVxMem_of_le (by omega), fun k hk => ?loaded, rfl, ?frame⟩,
    fun hout => exec_ldVxMem_of_gt (by omega)⟩
  case loaded => rw [State.fallthrough_getV, getV_setRegs_regsLoaded, if_pos hk]
  case frame =>
    refine (onlyRegs_setRegs fun r hr => ?_).fallthrough
    have hrx : ¬r ≤ x := by simpa using hr
    exact (getV_setRegs_regsLoaded s s.i.toNat x r).trans (if_neg hrx)

/-- Settles O39: the transfer puts `V0` and `V1` at the two bytes that the next fetch reads (R55). -/
theorem storedCodeIsFetched : Obligations.StoredCodeIsFetched := by
  unfold Obligations.StoredCodeIsFetched
  intro x s t hx hexec hi
  obtain ⟨hle, rfl⟩ := exec_ldMemVx_eq_next hexec
  have hpc : (s.storeBytes s.i.toNat (s.regsUpTo x)).fallthrough.pc = s.i := hi.symm
  have h0 := readByte_storeBytes_regsUpTo s s.i.toNat (Fin.zero_le x)
  have h1 := readByte_storeBytes_regsUpTo s s.i.toNat (k := 1) (x := x) hx
  rw [State.fetch_of_le (by rw [hpc]; omega), hpc, State.fallthrough_readByte, State.fallthrough_readByte]
  exact congrArg₂ (fun hi lo => Except.ok (wordOfBytes hi lo)) h0 h1

end Sys2Proof
end

section
/-! PROOFS. The statements about the keys and the delay timer's reading (44_keys_timers.md), and about CLS and what DRW refuses
(43_display.md). -/

namespace Sys2Proof

/-! ### The word of family F that reads the delay timer (R61) -/

theorem decodeWord_of_familyF_readDelay {w : Word} (hf : (fieldsOf w).f = 0xF) (hnn : (fieldsOf w).nn = 0x07) :
    decodeWord w = some (.ldVxDt (fieldsOf w).vx) := by
  simp [decodeWord_of_familyF hf, selectFamilyF, hnn]

namespace Machine

/-! ### The meanings, by the keys -/

theorem exec_skp (x : RegIx) (s : State) : exec (.skp x) s = .next (s.skipIf (s.getKey (keyOf (s.getV x)))) := rfl

theorem exec_sknp (x : RegIx) (s : State) : exec (.sknp x) s = .next (s.skipIf (!s.getKey (keyOf (s.getV x)))) := rfl

theorem exec_ldVxDt (x : RegIx) (s : State) : exec (.ldVxDt x) s = .next (s.setV x s.dt).fallthrough := rfl

theorem exec_ldVxK_of_none {s : State} (x : RegIx) (h : ∀ k, s.getKey k = false) : exec (.ldVxK x) s = .next s := by
  simp only [exec, execLdVxK, s.leastPressed_eq_none_iff.2 h]

theorem exec_ldVxK_of_least {s : State} (x : RegIx) {k : KeyIx} (hk : s.getKey k = true)
    (hleast : ∀ j, j < k → s.getKey j = false) :
    exec (.ldVxK x) s = .next (s.setV x (BitVec.ofNat 8 k.val)).fallthrough := by
  simp only [exec, execLdVxK, (s.leastPressed_eq_some_iff k).2 ⟨hk, hleast⟩]

/-- All that FX0A can do: stay where no key is pressed, else write the number of a pressed key and go on. -/
theorem exec_ldVxK_eq_next {s t : State} {x : RegIx} (h : exec (.ldVxK x) s = .next t) :
    ((∀ k, s.getKey k = false) ∧ t = s) ∨
    ∃ k, s.getKey k = true ∧ t = (s.setV x (BitVec.ofNat 8 k.val)).fallthrough := by
  rcases hleast : s.leastPressed with _ | k
  · have hnone := s.leastPressed_eq_none_iff.1 hleast
    rw [exec_ldVxK_of_none x hnone] at h
    exact .inl ⟨hnone, (Host.Outcome.next.inj h).symm⟩
  · obtain ⟨hk, hlt⟩ := (s.leastPressed_eq_some_iff k).1 hleast
    rw [exec_ldVxK_of_least x hk hlt] at h
    exact .inr ⟨k, hk, (Host.Outcome.next.inj h).symm⟩

/-- The key a skip tests is the one of the low nibble (R130). -/
theorem keyOf_eq {b : Byte} {k : KeyIx} (h : k.val = b.toNat % 16) : keyOf b = k :=
  Fin.ext ((val_keyOf b).trans h.symm)

/-! ### The meanings, by the arguments of a draw -/

theorem exec_cls (skip : Nibble) (s : State) : exec (.cls skip) s = .next (s.setDisplay Display.clear).fallthrough := rfl

theorem exec_drw_of_invalid {s : State} {x y : RegIx} {n : Nibble}
    (h : (s.getV x).toNat ≥ 64 ∨ (s.getV y).toNat ≥ 32 ∨ n.toNat = 0) :
    exec (.drw x y n) s = .fault (.invalidDrawArgs (s.getV x) (s.getV y) n) := by
  have hargs : ¬drawArgsValid (s.getV x) (s.getV y) n = true := by rw [drawArgsValid_eq_true_iff]; omega
  simp only [exec, execDrw, if_neg hargs, raise]

theorem exec_drw_of_gt {s : State} {x y : RegIx} {n : Nibble} (hx : (s.getV x).toNat < 64) (hy : (s.getV y).toNat < 32)
    (hn : n.toNat ≠ 0) (h : s.i.toNat + n.toNat > 0x1000) :
    exec (.drw x y n) s = .fault (.memoryOutOfBounds (max s.i.toNat 0x1000)) := by
  have hargs := (drawArgsValid_eq_true_iff (s.getV x) (s.getV y) n).2 ⟨hx, hy, hn⟩
  simp only [exec, execDrw, if_pos hargs, checkRange_of_gt h, raise]

theorem exec_drw_of_le {s : State} {x y : RegIx} {n : Nibble} (hx : (s.getV x).toNat < 64) (hy : (s.getV y).toNat < 32)
    (hn : n.toNat ≠ 0) (h : s.i.toNat + n.toNat ≤ 0x1000) :
    exec (.drw x y n) s = .next ((s.setDisplay (s.drawSprite (s.getV x) (s.getV y) n).1).setV VF
      (flagOf (s.drawSprite (s.getV x) (s.getV y) n).2)).fallthrough := by
  have hargs := (drawArgsValid_eq_true_iff (s.getV x) (s.getV y) n).2 ⟨hx, hy, hn⟩
  simp only [exec, execDrw, if_pos hargs, checkRange_of_le h]

/-- A draw that ends `Ok` had legal arguments and a sprite inside memory, drew it and set the flag. -/
theorem exec_drw_eq_next {s t : State} {x y : RegIx} {n : Nibble} (h : exec (.drw x y n) s = .next t) :
    ((s.getV x).toNat < 64 ∧ (s.getV y).toNat < 32 ∧ n.toNat ≠ 0 ∧ s.i.toNat + n.toNat ≤ 0x1000) ∧
    t = ((s.setDisplay (s.drawSprite (s.getV x) (s.getV y) n).1).setV VF
      (flagOf (s.drawSprite (s.getV x) (s.getV y) n).2)).fallthrough := by
  by_cases hargs : (s.getV x).toNat < 64 ∧ (s.getV y).toNat < 32 ∧ n.toNat ≠ 0
  · obtain ⟨hx, hy, hn⟩ := hargs
    obtain hle | hgt := le_or_gt (s.i.toNat + n.toNat) 0x1000
    · rw [exec_drw_of_le hx hy hn hle] at h
      exact ⟨⟨hx, hy, hn, hle⟩, (Host.Outcome.next.inj h).symm⟩
    · rw [exec_drw_of_gt hx hy hn hgt] at h
      cases h
  · rw [exec_drw_of_invalid (by omega)] at h
    cases h

/-! ### What drawing leaves alone -/

/-- New pixels are in the frame that leaves the pixels out. -/
theorem onlyRegsAndDisplay_setDisplay (rs : List RegIx) (s : State) (g : Display) :
    OnlyRegsAndDisplay rs s (s.setDisplay g) := by
  refine ⟨fun r _ => s.setDisplay_getV g r, s.setDisplay_i g, s.setDisplay_stack g, ⟨rfl, rfl⟩, ?keys, ?memory⟩
  case keys => exact fun k => s.setDisplay_getKey g k
  case memory => exact fun b => s.setDisplay_readByte g b

/-- A register write after new pixels is in the frame that leaves both out. -/
theorem OnlyRegsAndDisplay.setV {rs : List RegIx} {s t : State} {x : RegIx} (h : OnlyRegsAndDisplay rs s t) (hx : x ∈ rs)
    (b : Byte) : OnlyRegsAndDisplay rs s (t.setV x b) := by
  obtain ⟨hv, hi, hstack, htimers, hkeys, hmem⟩ := h
  refine ⟨fun r hr => ?_, hi, hstack, htimers, hkeys, hmem⟩
  have hne : r ≠ x := fun e => hr (e ▸ hx)
  rw [State.setV_getV, if_neg hne, hv r hr]

/-- Going on to the next instruction keeps a frame: `OnlyRegsAndDisplay` says nothing of `pc`. -/
theorem OnlyRegsAndDisplay.fallthrough {rs : List RegIx} {s t : State} (h : OnlyRegsAndDisplay rs s t) :
    OnlyRegsAndDisplay rs s t.fallthrough := h

end Machine

open Machine

/-- Settles O46: each key skip is one `SkipIf` on the key of the low nibble (R130, R131). -/
theorem keySkipsTestTheKey : Obligations.KeySkipsTestTheKey := by
  unfold Obligations.KeySkipsTestTheKey
  intro x k s hk
  refine ⟨⟨_, exec_skp x s, onlyRegs_skipIf [] s _, ?_⟩, ⟨_, exec_sknp x s, onlyRegs_skipIf [] s _, ?_⟩⟩ <;>
    rw [keyOf_eq hk] <;> rcases hkey : s.getKey k
  · exact s.skipIf_pc_of_false rfl
  · exact s.skipIf_pc_of_true rfl
  · exact s.skipIf_pc_of_true rfl
  · exact s.skipIf_pc_of_false rfl

/-- Settles O47: the search for the least key finds none or that key (R133). -/
theorem keyWaitTakesTheLeastKey : Obligations.KeyWaitTakesTheLeastKey := by
  unfold Obligations.KeyWaitTakesTheLeastKey
  refine fun x s => ⟨exec_ldVxK_of_none x, fun k hk hleast => ?pressed⟩
  case pressed =>
    obtain ⟨hvalue, hpc, hframe⟩ := setV_fallthrough_spec s x (BitVec.ofNat 8 k.val)
    refine ⟨_, exec_ldVxK_of_least x hk hleast, ?_, hpc, hframe⟩
    rw [hvalue, BitVec.toNat_ofNat, Nat.mod_eq_of_lt (by omega)]

/-- Settles O41: CLS writes the clear display and no register (R121). -/
theorem clearScreenClearsEveryPixel : Obligations.ClearScreenClearsEveryPixel := by
  unfold Obligations.ClearScreenClearsEveryPixel
  exact fun skip s => ⟨_, exec_cls skip s, Display.pixel_clear, rfl, (onlyRegsAndDisplay_setDisplay [] s _).fallthrough⟩

/-- Settles O43: the arguments are tested first, whatever `I` is, and the range after them (R122, R145). -/
theorem drawErrorsInOrder : Obligations.DrawErrorsInOrder := by
  unfold Obligations.DrawErrorsInOrder
  exact fun x y n s => ⟨exec_drw_of_invalid, exec_drw_of_gt⟩

end Sys2Proof
end

section
/-! PROOFS. The statements about drawing a sprite (43_display.md). The loops over rows and bits are one walk over the list of the
sprite's pixels; no pixel stands in that list twice, so each is toggled once. -/

namespace Sys2Proof

namespace Machine

/-! ### A walk over pixels -/

/-- The pixels of a list toggled one after the other, `hit` gathered as R122 says. -/
def drawPixels (ps : List (Fin 64 × Fin 32)) (d : DrawState) : DrawState :=
  ps.foldl (fun d p => drawPixel p.1 p.2 d) d

theorem drawPixels_cons (p : Fin 64 × Fin 32) (ps : List (Fin 64 × Fin 32)) (d : DrawState) :
    drawPixels (p :: ps) d = drawPixels ps (drawPixel p.1 p.2 d) := rfl

theorem drawPixel_pixel (p q : Fin 64 × Fin 32) (d : DrawState) :
    (drawPixel p.1 p.2 d).1.pixel q.1 q.2 = if q = p then !d.1.pixel q.1 q.2 else d.1.pixel q.1 q.2 := by
  rw [drawPixel, Display.pixel_toggle]
  simp only [Prod.ext_iff]

/-- Different pixels are each toggled once, and no other pixel is. -/
theorem drawPixels_pixel {ps : List (Fin 64 × Fin 32)} (h : ps.Nodup) (d : DrawState) (q : Fin 64 × Fin 32) :
    (drawPixels ps d).1.pixel q.1 q.2 = if q ∈ ps then !d.1.pixel q.1 q.2 else d.1.pixel q.1 q.2 := by
  induction ps generalizing d with
  | nil => rfl
  | cons p rest ih =>
    obtain ⟨hp, hrest⟩ := List.nodup_cons.1 h
    rw [drawPixels_cons, ih hrest, drawPixel_pixel]
    by_cases hq : q = p
    · subst hq; simp [hp]
    · simp [hq]

/-- `hit` after different pixels are toggled: one of them was lit before. -/
theorem drawPixels_hit {ps : List (Fin 64 × Fin 32)} (h : ps.Nodup) (d : DrawState) :
    (drawPixels ps d).2 = true ↔ d.2 = true ∨ ∃ q ∈ ps, d.1.pixel q.1 q.2 = true := by
  induction ps generalizing d with
  | nil => simp [drawPixels]
  | cons p rest ih =>
    obtain ⟨hp, hrest⟩ := List.nodup_cons.1 h
    have hsame : ∀ q ∈ rest, (drawPixel p.1 p.2 d).1.pixel q.1 q.2 = d.1.pixel q.1 q.2 := fun q hq => by
      rw [drawPixel_pixel, if_neg (ne_of_mem_of_not_mem hq hp)]
    have hrest' : (∃ q ∈ rest, (drawPixel p.1 p.2 d).1.pixel q.1 q.2 = true) ↔
        ∃ q ∈ rest, d.1.pixel q.1 q.2 = true :=
      exists_congr fun q => and_congr_right fun hq => by rw [hsame q hq]
    rw [drawPixels_cons, ih hrest, hrest', List.exists_mem_cons_iff, ← or_assoc]
    simp [drawPixel]

/-! ### The pixels of a sprite, in the order of drawing -/

/-- The pixels under the 1 bits of one sprite row. -/
def rowPixels (vx : Nat) (y : Fin 32) (b : Byte) : List (Fin 64 × Fin 32) :=
  ((List.range Config.spriteWidth).filter fun c => b.getLsbD (7 - c)).map fun c => (Fin.ofNat 64 (vx + c), y)

/-- The pixels under the 1 bits of the sprite rows from row `r` on. -/
def spritePixels (vx vy : Nat) : Nat → List Byte → List (Fin 64 × Fin 32)
  | _, [] => []
  | r, b :: rest => rowPixels vx (Fin.ofNat 32 (vy + r)) b ++ spritePixels vx vy (r + 1) rest

theorem drawRow_eq (vx : Nat) (y : Fin 32) (b : Byte) (d : DrawState) :
    drawRow vx y b d = drawPixels (rowPixels vx y b) d := by
  rw [drawRow, drawPixels, rowPixels, List.foldl_map, List.foldl_filter]

theorem drawRows_eq (vx vy r : Nat) (rows : List Byte) (d : DrawState) :
    drawRows vx vy r rows d = drawPixels (spritePixels vx vy r rows) d := by
  induction rows generalizing r d with
  | nil => rfl
  | cons b rest ih =>
    rw [drawRows, ih, drawRow_eq, spritePixels]
    exact (List.foldl_append ..).symm

theorem mem_rowPixels {vx : Nat} {y : Fin 32} {b : Byte} {q : Fin 64 × Fin 32} :
    q ∈ rowPixels vx y b ↔ ∃ c, c < 8 ∧ q.1.val = (vx + c) % 64 ∧ q.2 = y ∧ b.getLsbD (7 - c) = true := by
  simp only [rowPixels, List.mem_map, List.mem_filter, List.mem_range, Prod.ext_iff, Fin.ext_iff, Fin.val_ofNat]
  constructor
  · rintro ⟨c, ⟨hc, hbit⟩, hx, hy⟩
    exact ⟨c, hc, hx.symm, hy.symm, hbit⟩
  · rintro ⟨c, hc, hx, hy, hbit⟩
    exact ⟨c, ⟨hc, hbit⟩, hx.symm, hy.symm⟩

/-- Eight columns from one on are different modulo 64. -/
theorem nodup_rowPixels (vx : Nat) (y : Fin 32) (b : Byte) : (rowPixels vx y b).Nodup := by
  refine (List.nodup_range.filter _).map_on fun c hc c' hc' heq => ?_
  have hc8 : c < 8 := List.mem_range.1 (List.mem_filter.1 hc).1
  have hc8' : c' < 8 := List.mem_range.1 (List.mem_filter.1 hc').1
  have hcol : (vx + c) % 64 = (vx + c') % 64 := congrArg (fun q => q.1.val) heq
  omega

theorem mem_spritePixels {vx vy r : Nat} {rows : List Byte} {q : Fin 64 × Fin 32} :
    q ∈ spritePixels vx vy r rows ↔ ∃ k c, ∃ h : k < rows.length, c < 8 ∧ q.1.val = (vx + c) % 64 ∧
      q.2.val = (vy + (r + k)) % 32 ∧ rows[k].getLsbD (7 - c) = true := by
  induction rows generalizing r with
  | nil => simp [spritePixels]
  | cons b rest ih =>
    rw [spritePixels, List.mem_append, mem_rowPixels, ih]
    constructor
    · rintro (⟨c, hc, hx, hy, hbit⟩ | ⟨k, c, hk, hc, hx, hy, hbit⟩)
      · exact ⟨0, c, Nat.succ_pos _, hc, hx, by rw [hy]; rfl, hbit⟩
      · exact ⟨k + 1, c, Nat.succ_lt_succ hk, hc, hx, by rw [hy, Nat.add_assoc r, Nat.add_comm 1], hbit⟩
    · rintro ⟨k, c, hk, hc, hx, hy, hbit⟩
      cases k with
      | zero => exact .inl ⟨c, hc, hx, Fin.ext hy, hbit⟩
      | succ k =>
        refine .inr ⟨k, c, Nat.lt_of_succ_lt_succ hk, hc, hx, ?_, hbit⟩
        rw [hy, Nat.add_assoc r, Nat.add_comm 1]

/-- Up to 32 rows from one on are different modulo 32. -/
theorem nodup_spritePixels (vx vy r : Nat) {rows : List Byte} (h : rows.length ≤ 32) :
    (spritePixels vx vy r rows).Nodup := by
  induction rows generalizing r with
  | nil => exact List.nodup_nil
  | cons b rest ih =>
    have hlen : rest.length < 32 := h
    refine List.nodup_append'.2 ⟨nodup_rowPixels vx _ b, ih (r + 1) hlen.le, fun q hq hq' => ?_⟩
    obtain ⟨c, -, -, hy, -⟩ := mem_rowPixels.1 hq
    obtain ⟨k, c', hk, -, -, hy', -⟩ := mem_spritePixels.1 hq'
    have hrow : q.2.val = (vy + r) % 32 := congrArg Fin.val hy
    omega

/-! ### A draw, pixel by pixel (R122) -/

/-- The sprite covers a pixel exactly if the walk goes over it. -/
theorem spriteCovers_iff_mem (s : State) (vx vy n : Nat) (q : Fin 64 × Fin 32) :
    spriteCovers s vx vy n q.1 q.2 ↔ q ∈ spritePixels vx vy 0 (s.loadBytes s.i.toNat n) := by
  rw [mem_spritePixels]
  simp only [State.loadBytes, Memory.length_readBytes, Memory.getElem_readBytes, Nat.zero_add]
  constructor
  · rintro ⟨r, c, hr, hc, hx, hy, hbit⟩
    exact ⟨r, c, hr, hc, hx, hy, hbit⟩
  · rintro ⟨r, c, hr, hc, hx, hy, hbit⟩
    exact ⟨r, c, hr, hc, hx, hy, hbit⟩

theorem drawSprite_eq (s : State) (vx vy : Byte) (n : Nibble) : s.drawSprite vx vy n =
    drawPixels (spritePixels vx.toNat vy.toNat 0 (s.loadBytes s.i.toNat n.toNat)) (s.display, false) :=
  drawRows_eq ..

theorem nodup_sprite (s : State) (vx vy : Nat) (n : Nibble) :
    (spritePixels vx vy 0 (s.loadBytes s.i.toNat n.toNat)).Nodup := by
  have hn := n.isLt
  exact nodup_spritePixels vx vy 0 (by rw [State.loadBytes, Memory.length_readBytes]; omega)

/-- A covered pixel is toggled. -/
theorem drawSprite_pixel_of_covers {s : State} {vx vy : Byte} {n : Nibble} {px : Fin 64} {py : Fin 32}
    (h : spriteCovers s vx.toNat vy.toNat n.toNat px py) :
    (s.drawSprite vx vy n).1.pixel px py = !s.display.pixel px py := by
  rw [drawSprite_eq, drawPixels_pixel (nodup_sprite s _ _ n) _ (px, py),
    if_pos ((spriteCovers_iff_mem s _ _ _ (px, py)).1 h)]

/-- A pixel that is not covered is as before. -/
theorem drawSprite_pixel_of_not_covers {s : State} {vx vy : Byte} {n : Nibble} {px : Fin 64} {py : Fin 32}
    (h : ¬spriteCovers s vx.toNat vy.toNat n.toNat px py) :
    (s.drawSprite vx vy n).1.pixel px py = s.display.pixel px py := by
  rw [drawSprite_eq, drawPixels_pixel (nodup_sprite s _ _ n) _ (px, py),
    if_neg (mt (spriteCovers_iff_mem s _ _ _ (px, py)).2 h)]

/-- The draw hits exactly if a covered pixel was lit. -/
theorem drawSprite_hit_iff (s : State) (vx vy : Byte) (n : Nibble) : (s.drawSprite vx vy n).2 = true ↔
    ∃ px py, spriteCovers s vx.toNat vy.toNat n.toNat px py ∧ s.display.pixel px py = true := by
  rw [drawSprite_eq, drawPixels_hit (nodup_sprite s _ _ n)]
  simp only [Bool.false_eq_true, false_or, ← spriteCovers_iff_mem, Prod.exists]

theorem flagOf_eq_zero_or_one (b : Bool) : flagOf b = 0 ∨ flagOf b = 1 := by
  cases b
  · exact .inl rfl
  · exact .inr rfl

/-! ### Two draws of one sprite (R124) -/

/-- Which pixels a sprite covers depends on `I` and memory only. -/
theorem spriteCovers_congr {s t : State} (hi : t.i = s.i) (hm : SameMemory s t) (vx vy n : Nat) (px : Fin 64)
    (py : Fin 32) : spriteCovers t vx vy n px py ↔ spriteCovers s vx vy n px py := by
  have hread : ∀ b, t.readByte b = s.readByte b := hm
  simp only [spriteCovers, hi, hread]

/-- A sprite covers some pixel exactly if it has a 1 bit, wherever it is drawn. -/
theorem exists_spriteCovers_iff (s : State) (vx vy n : Nat) : (∃ px py, spriteCovers s vx vy n px py) ↔
    ∃ r c, r < n ∧ c < 8 ∧ (s.readByte (s.i.toNat + r)).getLsbD c = true := by
  constructor
  · rintro ⟨px, py, r, c, hr, hc, -, -, hbit⟩
    exact ⟨r, 7 - c, hr, by omega, hbit⟩
  · rintro ⟨r, c, hr, hc, hbit⟩
    have hflip : 7 - (7 - c) = c := by omega
    exact ⟨Fin.ofNat 64 (vx + (7 - c)), Fin.ofNat 32 (vy + r), r, 7 - c, hr, by omega, rfl, rfl, hflip.symm ▸ hbit⟩

/-- A core with the sprite row 0x80 at `I` and the one pixel it covers, the top left one, lit. -/
def litUnderSprite : State :=
  ((State.reset.setI 0x300).storeBytes 0x300 [0x80]).setDisplay (Display.clear.toggle 0 0)

/-- Two draws there: the first erases the lit pixel, so the second finds it clear and sets VF to 0. -/
theorem litUnderSprite_drawn_twice : ∃ t u, exec (.drw 0 0 1) litUnderSprite = .next t ∧
    exec (.drw 0 0 1) t = .next u ∧ u.getV VF = 0 :=
  ⟨_, _, rfl, rfl, by decide⟩

end Machine

open Machine

/-- Settles O42: the draw is a walk over the sprite's pixels, each once (R122). -/
theorem drawTogglesTheSpritePixels : Obligations.DrawTogglesTheSpritePixels := by
  unfold Obligations.DrawTogglesTheSpritePixels
  intro x y n s hx hy hn hmem
  refine ⟨_, exec_drw_of_le hx hy hn hmem, fun px py => drawSprite_pixel_of_covers,
    fun px py => drawSprite_pixel_of_not_covers, ?hit, ?flag, rfl, ?frame⟩
  case hit => rw [State.fallthrough_getV, State.setV_getV, if_pos rfl, flagOf_eq_one_iff, drawSprite_hit_iff]
  case flag =>
    rw [State.fallthrough_getV, State.setV_getV, if_pos rfl]
    exact flagOf_eq_zero_or_one _
  case frame => exact ((onlyRegsAndDisplay_setDisplay [VF] s _).setV (List.mem_singleton_self VF) _).fallthrough

/-- Settles O44: the second draw covers the same pixels, and finds each as the first one left it, toggled. -/
theorem drawTwiceRestoresTheDisplay : Obligations.DrawTwiceRestoresTheDisplay := by
  unfold Obligations.DrawTwiceRestoresTheDisplay
  intro x y n s t hx hy hexec
  obtain ⟨⟨hvx, hvy, hn, hmem⟩, -⟩ := exec_drw_eq_next hexec
  obtain ⟨t', ht', hcovered, hother, hhit, hflag, -, hregs, hi, -, -, -, hsame⟩ :=
    drawTogglesTheSpritePixels x y n s hvx hvy hn hmem
  obtain rfl : t' = t := Host.Outcome.next.inj (ht'.symm.trans hexec)
  have htx : t'.getV x = s.getV x := hregs x (by simpa using hx)
  have hty : t'.getV y = s.getV y := hregs y (by simpa using hy)
  obtain ⟨u, hu, hcovered', hother', hhit', -, -, -⟩ :=
    drawTogglesTheSpritePixels x y n t' (htx ▸ hvx) (hty ▸ hvy) hn (hi ▸ hmem)
  simp only [htx, hty, spriteCovers_congr hi hsame] at hcovered' hother' hhit'
  refine ⟨u, hu, Display.ext fun px py => ?restored, ?secondHit, fun hclear => ?afterClear⟩
  case restored =>
    by_cases hc : spriteCovers s (s.getV x).toNat (s.getV y).toNat n.toNat px py
    · rw [hcovered' px py hc, hcovered px py hc, Bool.not_not]
    · rw [hother' px py hc, hother px py hc]
  case secondHit =>
    rw [hhit']
    refine exists_congr fun px => exists_congr fun py => and_congr_right fun hc => ?_
    rw [hcovered px py hc, Bool.not_eq_true']
  case afterClear =>
    rw [hhit', ← exists_spriteCovers_iff s (s.getV x).toNat (s.getV y).toNat]
    refine exists_congr fun px => exists_congr fun py => and_iff_left_of_imp fun hc => ?_
    have hdark : s.display.pixel px py = false := by
      by_contra hlit
      have hone := hhit.2 ⟨px, py, hc, by simpa using hlit⟩
      rw [hclear] at hone
      exact absurd hone (by decide)
    rw [hcovered px py hc, hdark]; rfl

/-- Refutes O45: with every covered pixel lit before the first draw, the second one collides with none. -/
theorem not_secondDrawAlwaysCollides : ¬Obligations.SecondDrawAlwaysCollides := by
  unfold Obligations.SecondDrawAlwaysCollides
  intro h
  obtain ⟨t, u, ht, hu, hflag⟩ := litUnderSprite_drawn_twice
  have hbit : (litUnderSprite.readByte (litUnderSprite.i.toNat + 0)).getLsbD 7 = true := by decide
  have hone := h 0 0 1 litUnderSprite t u (by decide) (by decide) ht hu ⟨0, 7, by decide, by decide, hbit⟩
  rw [hflag] at hone
  exact absurd hone (by decide)

end Sys2Proof
end

section
/-! PROOFS. The statements about what every instruction changes, and the invariant. What an instruction can do to the state is said
once, by `Effect`, and which `pc` it leaves once more, by `pc_eq_pcAfter`; the statements are read off these. -/

namespace Sys2Proof

namespace Machine

/-! ### What an instruction that ends `Ok` does to the state -/

/-- The shapes of the change an instruction makes, each with what the rules list the instruction for. -/
inductive Effect (s : State) : Instr → State → Prop where
  /-- Only `pc` moves: the jumps, the skips, and FX0A while it waits. -/
  | move {i : Instr} (a : Word) : Effect s i (s.setPc a)
  /-- One register is written. -/
  | register {i : Instr} {x : RegIx} (b : Byte) (hx : writesReg i x = true) : Effect s i (s.setV x b).fallthrough
  /-- A result and a flag are written. -/
  | resultAndFlag {i : Instr} {x : RegIx} (b f : Byte) (hx : writesReg i x = true) (hflag : writesReg i VF = true) :
    Effect s i (s.setWithFlag x b f).fallthrough
  /-- A draw of the oracle goes to a register. -/
  | random (x : RegIx) (nn : Byte) : Effect s (.rnd x nn) (s.drawRandom.2.setV x (s.drawRandom.1 &&& nn)).fallthrough
  /-- `I` is written. -/
  | index {i : Instr} (a : Word) (hi : (∃ nnn, i = .ldI nnn) ∨ (∃ x, i = .addIVx x) ∨ ∃ x, i = .ldFVx x) :
    Effect s i (s.setI a).fallthrough
  /-- The address after a CALL is pushed on a stack with room. -/
  | push (nnn : Addr12) (hroom : s.stack.length < Config.stackCapacity) :
    Effect s (.call nnn) ((s.setStack (s.stack ++ [s.pc + 2])).setPc (zextAddr nnn))
  /-- The last entry is popped off the stack. -/
  | pop (skip : Nibble) {rest : List Word} {a : Word} (hstack : s.stack = rest ++ [a]) :
    Effect s (.ret skip) ((s.setStack rest).setPc a)
  /-- The delay timer is set. -/
  | delay (x : RegIx) : Effect s (.ldDtVx x) (s.setDt (s.getV x)).fallthrough
  /-- The sound timer is set. -/
  | sound (x : RegIx) : Effect s (.ldStVx x) (s.setSt (s.getV x)).fallthrough
  /-- The display is cleared. -/
  | clear (skip : Nibble) : Effect s (.cls skip) (s.setDisplay Display.clear).fallthrough
  /-- A sprite is drawn. -/
  | draw (x y : RegIx) (n : Nibble) (g : Display) (hit : Bool) :
    Effect s (.drw x y n) ((s.setDisplay g).setV VF (flagOf hit)).fallthrough
  /-- Bytes are stored at `I`, inside memory. -/
  | store {i : Instr} (bs : List Byte) (hin : s.i.toNat + bs.length ≤ 0x1000)
    (hlisted : ∀ a, s.i.toNat ≤ a → a < s.i.toNat + bs.length → storesTo s i a) :
    Effect s i (s.storeBytes s.i.toNat bs).fallthrough
  /-- Registers up to `Vx` are loaded, and those above it are as before. -/
  | load (x : RegIx) (v : Vector Byte 16) (habove : ∀ r : RegIx, ¬r ≤ x → v[r.val] = s.getV r) :
    Effect s (.ldVxMem x) (s.setRegs v).fallthrough

/-- Every instruction that ends `Ok` has one of these effects. -/
theorem exec_effect {i : Instr} {s t : State} (h : exec i s = .next t) : Effect s i t := by
  cases i with
  | jp _ | jpV0 _ | seImm _ _ | sneImm _ _ | seReg _ _ _ | sneReg _ _ _ | skp _ | sknp _ =>
    cases h; exact .move _
  | ldImm x _ | addImm x _ | ldReg x _ | orReg x _ | andReg x _ | xorReg x _ | ldVxDt x =>
    cases h; exact .register _ (beq_self_eq_true x)
  | addReg x _ | subReg x _ | shr x _ | subnReg x _ | shl x _ =>
    cases h; exact .resultAndFlag _ _ (by simp [writesReg]) (by simp [writesReg])
  | rnd x nn => cases h; exact .random x nn
  | ldI nnn => cases h; exact .index _ (.inl ⟨nnn, rfl⟩)
  | addIVx x => cases h; exact .index _ (.inr (.inl ⟨x, rfl⟩))
  | ldFVx x => cases h; exact .index _ (.inr (.inr ⟨x, rfl⟩))
  | ldDtVx x => cases h; exact .delay x
  | ldStVx x => cases h; exact .sound x
  | cls skip => cases h; exact .clear skip
  | call nnn =>
    obtain ⟨hroom, rfl⟩ := exec_call_eq_next h
    exact .push nnn hroom
  | ret skip =>
    obtain ⟨rest, a, hstack, rfl⟩ := exec_ret_eq_next h
    exact .pop skip hstack
  | drw x y n =>
    obtain ⟨-, rfl⟩ := exec_drw_eq_next h
    exact .draw x y n _ _
  | ldVxK x =>
    rcases exec_ldVxK_eq_next h with ⟨-, rfl⟩ | ⟨k, -, rfl⟩
    · exact .move t.pc
    · exact .register _ (beq_self_eq_true x)
  | ldBVx x =>
    obtain ⟨hin, rfl⟩ := exec_ldBVx_eq_next h
    exact .store _ hin fun a hle hlt => ⟨hle, hlt⟩
  | ldMemVx x =>
    obtain ⟨hin, rfl⟩ := exec_ldMemVx_eq_next h
    have hlen := s.length_regsUpTo x
    exact .store _ (hlen ▸ hin) fun a hle hlt => ⟨hle, hlen ▸ hlt⟩
  | ldVxMem x =>
    obtain ⟨-, rfl⟩ := exec_ldVxMem_eq_next h
    exact .load x _ fun r hr => (getV_setRegs_regsLoaded s s.i.toNat x r).trans (if_neg hr)

section
variable {i : Instr} {s t : State}

/-! ### Read off the effect: what changes, and for which instruction -/

/-- A register that differs is one the instruction is listed to write (R19, R104). -/
theorem Effect.writesReg_of_getV_ne {r : RegIx} (e : Effect s i t) (h : t.getV r ≠ s.getV r) : writesReg i r = true := by
  cases e with
  | @register i x b hx =>
    rw [State.fallthrough_getV, State.setV_getV] at h
    by_cases hr : r = x
    · exact hr ▸ hx
    · exact absurd (if_neg hr) h
  | @resultAndFlag i x b f hx hflag =>
    rw [State.fallthrough_getV, State.setWithFlag_getV] at h
    by_cases hVF : r = VF
    · exact hVF ▸ hflag
    · by_cases hr : r = x
      · exact hr ▸ hx
      · exact absurd (by rw [if_neg hVF, if_neg hr]) h
  | random x nn =>
    rw [State.fallthrough_getV, State.setV_getV] at h
    by_cases hr : r = x
    · exact beq_iff_eq.2 hr
    · exact absurd (if_neg hr) h
  | draw x y n g hit =>
    rw [State.fallthrough_getV, State.setV_getV] at h
    by_cases hr : r = VF
    · exact beq_iff_eq.2 hr
    · exact absurd (if_neg hr) h
  | load x v habove =>
    by_cases hr : r ≤ x
    · exact decide_eq_true hr
    · exact absurd (habove r hr) h
  | _ => exact absurd rfl h

/-- A byte that differs is inside memory and one the instruction stores to (R35, R116). -/
theorem Effect.storesTo_of_readByte_ne {a : Nat} (e : Effect s i t) (h : t.readByte a ≠ s.readByte a) :
    storesTo s i a ∧ a ≤ 0xFFF := by
  cases e with
  | store bs hin hlisted =>
    by_cases hout : a < s.i.toNat ∨ s.i.toNat + bs.length ≤ a
    · exact absurd (s.readByte_storeBytes_of_outside _ bs a hout) h
    · exact ⟨hlisted a (by omega) (by omega), by omega⟩
  | _ => exact absurd rfl h

theorem Effect.index_of_i_ne (e : Effect s i t) (h : t.i ≠ s.i) :
    (∃ nnn, i = .ldI nnn) ∨ (∃ x, i = .addIVx x) ∨ ∃ x, i = .ldFVx x := by
  cases e with
  | index _ hi => exact hi
  | _ => exact absurd rfl h

theorem Effect.call_or_ret_of_stack_ne (e : Effect s i t) (h : t.stack ≠ s.stack) :
    (∃ nnn, i = .call nnn) ∨ ∃ k, i = .ret k := by
  cases e with
  | push nnn => exact .inl ⟨nnn, rfl⟩
  | pop skip => exact .inr ⟨skip, rfl⟩
  | _ => exact absurd rfl h

theorem Effect.ldDtVx_of_dt_ne (e : Effect s i t) (h : t.dt ≠ s.dt) : ∃ x, i = .ldDtVx x := by
  cases e with
  | delay x => exact ⟨x, rfl⟩
  | _ => exact absurd rfl h

theorem Effect.ldStVx_of_st_ne (e : Effect s i t) (h : t.st ≠ s.st) : ∃ x, i = .ldStVx x := by
  cases e with
  | sound x => exact ⟨x, rfl⟩
  | _ => exact absurd rfl h

theorem Effect.cls_or_drw_of_display_ne (e : Effect s i t) (h : t.display ≠ s.display) :
    (∃ k, i = .cls k) ∨ ∃ x y n, i = .drw x y n := by
  cases e with
  | clear skip => exact .inl ⟨skip, rfl⟩
  | draw x y n => exact .inr ⟨x, y, n, rfl⟩
  | _ => exact absurd rfl h

theorem Effect.key_eq (e : Effect s i t) : t.key = s.key := by cases e <;> rfl

theorem Effect.rnd_of_draws_ne (e : Effect s i t) (h : t.draws ≠ s.draws) : ∃ x nn, i = .rnd x nn := by
  cases e with
  | random x nn => exact ⟨x, nn, rfl⟩
  | _ => exact absurd rfl h

/-- No instruction puts the random oracle back (R106). -/
theorem Effect.draws_le (e : Effect s i t) : s.draws ≤ t.draws := by
  cases e with
  | random => exact Nat.le_succ _
  | _ => exact Nat.le_refl _

/-! ### Read off the effect: memory and the stack keep their form -/

theorem Effect.mem_wf (e : Effect s i t) (h : s.mem.wf) : t.mem.wf := by
  cases e with
  | store bs hin => exact Memory.wf_writeBytes h hin
  | _ => exact h

theorem Effect.length_stack_le (e : Effect s i t) (h : s.stack.length ≤ Config.stackCapacity) :
    t.stack.length ≤ Config.stackCapacity := by
  cases e with
  | push nnn hroom =>
    rw [State.setPc_stack, State.setStack_stack, List.length_append]
    exact hroom
  | @pop skip rest a hstack =>
    rw [hstack, List.length_append] at h
    exact Nat.le_of_succ_le h
  | _ => exact h

/-- The addresses on the stack stay at most 0x1000: what a CALL adds is after an address a step fetched from. -/
theorem Effect.mem_stack_le (e : Effect s i t) (hpc : s.pc.toNat ≤ 0xFFE) (h : ∀ a ∈ s.stack, a.toNat ≤ 0x1000) :
    ∀ a ∈ t.stack, a.toNat ≤ 0x1000 := by
  cases e with
  | push nnn =>
    have hnext : (s.pc + 2).toNat ≤ 0x1000 := by bv_omega
    intro a ha
    rcases List.mem_append.1 ha with ha | ha
    · exact h a ha
    · rw [List.mem_singleton.1 ha]; exact hnext
  | pop skip hstack => exact fun a ha => h a (hstack ▸ List.mem_append_left _ ha)
  | _ => exact h

end

/-! ### The flags (R91, R104) -/

theorem eq_zero_or_one_of_toNat_le {b : Byte} (h : b.toNat ≤ 1) : b = 0 ∨ b = 1 := by
  rcases Nat.le_one_iff_eq_zero_or_eq_one.1 h with h | h
  · exact .inl (BitVec.eq_of_toNat_eq h)
  · exact .inr (BitVec.eq_of_toNat_eq h)

theorem shiftedOutRight_eq_zero_or_one (b : Byte) : shiftedOutRight b = 0 ∨ shiftedOutRight b = 1 :=
  eq_zero_or_one_of_toNat_le (by rw [toNat_shiftedOutRight]; omega)

theorem shiftedOutLeft_eq_zero_or_one (b : Byte) : shiftedOutLeft b = 0 ∨ shiftedOutLeft b = 1 :=
  eq_zero_or_one_of_toNat_le (by have hb := b.isLt; rw [toNat_shiftedOutLeft]; omega)

/-- After a result and a flag are written, VF is the flag, whatever register the result went to. -/
theorem getV_VF_of_flag {s : State} {x : RegIx} {b f : Byte} (hf : f = 0 ∨ f = 1) :
    (s.setWithFlag x b f).fallthrough.getV VF = 0 ∨ (s.setWithFlag x b f).fallthrough.getV VF = 1 := by
  rwa [State.fallthrough_getV, State.setWithFlag_getV, if_pos rfl]

/-! ### The `pc` of every instruction (R73) -/

/-- Where a skip goes, by its condition as the rules write it (R78). -/
theorem State.skipIf_pc_of_iff (s : State) {cond : Bool} {p : Prop} [Decidable p] (h : cond = true ↔ p) :
    (s.skipIf cond).pc = if p then s.pc + 4 else s.pc + 2 := by
  by_cases hp : p
  · rw [if_pos hp, s.skipIf_pc_of_true (h.2 hp)]
  · rw [if_neg hp, s.skipIf_pc_of_false (Bool.eq_false_iff.2 (mt h.1 hp))]

/-- Where a skip goes whose condition is the opposite of what the rules write. -/
theorem State.skipIf_pc_of_iff_not (s : State) {cond : Bool} {p : Prop} [Decidable p] (h : cond = true ↔ ¬p) :
    (s.skipIf cond).pc = if p then s.pc + 2 else s.pc + 4 := by
  rw [s.skipIf_pc_of_iff h, ite_not]

/-- The key a skip tests, named by the low nibble as R130 and R131 do. -/
theorem getKey_keyOf_iff (s : State) (b : Byte) :
    s.getKey (keyOf b) = true ↔ ∃ k : KeyIx, k.val = b.toNat % 16 ∧ s.getKey k = true := by
  constructor
  · exact fun h => ⟨keyOf b, val_keyOf b, h⟩
  · rintro ⟨k, hk, h⟩
    rwa [keyOf_eq hk]

theorem pc_eq_pcAfter {i : Instr} {s t : State} (h : exec i s = .next t) : t.pc = pcAfter s i := by
  cases i with
  | seImm _ _ | seReg _ _ _ => cases h; exact s.skipIf_pc_of_iff beq_iff_eq
  | sneImm _ _ | sneReg _ _ _ => cases h; exact s.skipIf_pc_of_iff_not bne_iff_ne
  | skp x => cases h; exact s.skipIf_pc_of_iff (getKey_keyOf_iff s (s.getV x))
  | sknp x =>
    cases h
    exact s.skipIf_pc_of_iff_not (by rw [Bool.not_eq_true', ← Bool.not_eq_true, getKey_keyOf_iff])
  | call nnn => obtain ⟨-, rfl⟩ := exec_call_eq_next h; rfl
  | ret skip =>
    obtain ⟨rest, a, hstack, rfl⟩ := exec_ret_eq_next h
    rw [State.setPc_pc, pcAfter, hstack, List.getLastD_concat]
  | drw x y n => obtain ⟨-, rfl⟩ := exec_drw_eq_next h; rfl
  | ldVxK x =>
    rcases exec_ldVxK_eq_next h with ⟨hnone, rfl⟩ | ⟨k, hk, rfl⟩
    · rw [pcAfter, if_pos hnone]
    · rw [pcAfter, if_neg fun hnone => by simp [hnone k] at hk]; rfl
  | ldBVx x => obtain ⟨-, rfl⟩ := exec_ldBVx_eq_next h; rfl
  | ldMemVx x => obtain ⟨-, rfl⟩ := exec_ldMemVx_eq_next h; rfl
  | ldVxMem x =>
    obtain ⟨-, rfl⟩ := exec_ldVxMem_eq_next h
    rw [State.fallthrough_pc, State.setRegs_pc]; rfl
  | _ => cases h; rfl

/-- The new `pc` is bounded where a step ran: the largest is that of JP V0 (R21). -/
theorem pcAfter_le {s : State} (hpc : s.pc.toNat ≤ 0xFFE) (hstack : ∀ a ∈ s.stack, a.toNat ≤ 0x1000) (i : Instr) :
    (pcAfter s i).toNat ≤ 0x10FE := by
  have hnext : (s.pc + 2).toNat ≤ 0x10FE := by bv_omega
  have hskip : (s.pc + 4).toNat ≤ 0x10FE := by bv_omega
  cases i with
  | jp nnn | call nnn => exact (toNat_zextAddr_le nnn).trans (by decide)
  | jpV0 nnn =>
    have haddr := nnn.isLt
    have hbyte := (s.getV 0).isLt
    exact (toNat_jump_offset nnn (s.getV 0)).le.trans (by omega)
  | ret skip =>
    rcases List.eq_nil_or_concat' s.stack with hnil | ⟨rest, a, hconcat⟩
    · rw [pcAfter, hnil]; decide
    · rw [pcAfter, hconcat, List.getLastD_concat]
      exact (hstack a (by simp [hconcat])).trans (by decide)
  | seImm _ _ | seReg _ _ _ | skp _ | sneImm _ _ | sneReg _ _ _ | sknp _ =>
    rw [pcAfter]
    split
    · assumption
    · assumption
  | ldVxK x =>
    rw [pcAfter]
    split
    · omega
    · exact hnext
  | _ => exact hnext

end Machine

open Machine

/-- Settles O12: the `pc` of each instruction's meaning is the one the rules give (R73). -/
theorem pcPolicyOfEveryInstruction : Obligations.PcPolicyOfEveryInstruction := by
  unfold Obligations.PcPolicyOfEveryInstruction
  exact fun _ _ _ => pc_eq_pcAfter

/-- Settles O32: the effect names the registers it writes, and the flags are flags (R19, R104). -/
theorem registersChangeOnlyAsListed : Obligations.RegistersChangeOnlyAsListed := by
  unfold Obligations.RegistersChangeOnlyAsListed
  refine ⟨fun i s t r h => (exec_effect h).writesReg_of_getV_ne, fun x y n i s t hi h => ?flags⟩
  case flags =>
    simp only [List.mem_cons, List.not_mem_nil, or_false] at hi
    rcases hi with rfl | rfl | rfl | rfl | rfl | rfl
    · cases h; exact getV_VF_of_flag (flagOf_eq_zero_or_one _)
    · cases h; exact getV_VF_of_flag (flagOf_eq_zero_or_one _)
    · cases h; exact getV_VF_of_flag (shiftedOutRight_eq_zero_or_one _)
    · cases h; exact getV_VF_of_flag (flagOf_eq_zero_or_one _)
    · cases h; exact getV_VF_of_flag (shiftedOutLeft_eq_zero_or_one _)
    · obtain ⟨⟨hx, hy, hn, hmem⟩, -⟩ := exec_drw_eq_next h
      obtain ⟨t', ht', -, -, -, hflag, -⟩ := drawTogglesTheSpritePixels x y n s hx hy hn hmem
      exact Host.Outcome.next.inj (ht'.symm.trans h) ▸ hflag

/-- Settles O38: only a store's effect changes a byte, and it is inside memory (R35, R116). -/
theorem memoryChangesOnlyWhereStored : Obligations.MemoryChangesOnlyWhereStored := by
  unfold Obligations.MemoryChangesOnlyWhereStored
  exact fun i s t a h => (exec_effect h).storesTo_of_readByte_ne

/-- Settles O40: each piece of state is changed by the effects that name it, and by no other. -/
theorem specialStateChangesOnlyAsListed : Obligations.SpecialStateChangesOnlyAsListed := by
  unfold Obligations.SpecialStateChangesOnlyAsListed
  intro i s t h
  have e := exec_effect h
  exact ⟨e.index_of_i_ne, e.call_or_ret_of_stack_ne, e.ldDtVx_of_dt_ne, e.ldStVx_of_st_ne, e.cls_or_drw_of_display_ne,
    e.key_eq, e.rnd_of_draws_ne⟩

/-- Settles O48: FX07 is one register write of `DT` (R132), and of the effects only FX15's changes `DT` (R27, R134). -/
theorem delayTimerIsRead : Obligations.DelayTimerIsRead := by
  unfold Obligations.DelayTimerIsRead
  refine ⟨fun _ => decodeWord_of_familyF_readDelay, fun x s => ⟨_, exec_ldVxDt x s, setV_fallthrough_spec s x s.dt⟩,
    fun s t hstep hother => ?kept⟩
  case kept =>
    obtain ⟨i, hfetch, -, hexec⟩ := step_eq_next hstep
    by_contra hne
    obtain ⟨x, rfl⟩ := (exec_effect hexec).ldDtVx_of_dt_ne hne
    exact hother x hfetch

/-- Settles O59: the effect keeps memory's form and the stack's bounds, and the new `pc` is bounded where the fetch was. -/
theorem everyStepKeepsTheInvariant : Obligations.EveryStepKeepsTheInvariant := by
  unfold Obligations.EveryStepKeepsTheInvariant
  rintro s t ⟨hmem, hlen, hstack, -⟩ hstep
  obtain ⟨i, -, hpc, hexec⟩ := step_eq_next hstep
  have e := exec_effect hexec
  exact ⟨e.mem_wf hmem, e.length_stack_le hlen, e.mem_stack_le hpc hstack,
    pc_eq_pcAfter hexec ▸ pcAfter_le hpc hstack i⟩

end Sys2Proof
end

section
/-! PROOFS. The statements about the errors of a step (60_exceptions.md). -/

namespace Sys2Proof

namespace Machine

/-! ### The error of every instruction (R142) -/

/-- Where a test decides between an answer and an error, the error is the only one and comes exactly if the test holds. -/
theorem answers_of_test {o : Host.Outcome State Fault Refusal} {p : Prop} {u : State} {g : Fault}
    (hno : ¬p → o = .next u) (hyes : p → o = .fault g) :
    ((∃ t, o = .next t) ∧ ∀ f, ¬(p ∧ f = g)) ∨ ∃ g', o = .fault g' ∧ ∀ f, (p ∧ f = g) ↔ f = g' := by
  by_cases hp : p
  · exact .inr ⟨g, hyes hp, fun f => and_iff_right hp⟩
  · exact .inl ⟨⟨u, hno hp⟩, fun f hf => hp hf.1⟩

/-- An instruction that has an error ends with it, and it has no other; one that has none ends `Ok`. -/
theorem exec_answers (i : Instr) (s : State) :
    ((∃ t, exec i s = .next t) ∧ ∀ f, ¬instrError s i f) ∨
    ∃ g, exec i s = .fault g ∧ ∀ f, instrError s i f ↔ f = g := by
  cases i with
  | ret skip =>
    rcases List.eq_nil_or_concat' s.stack with hnil | ⟨rest, a, hstack⟩
    · exact .inr ⟨_, exec_ret_of_nil skip hnil, fun f => and_iff_right hnil⟩
    · exact .inl ⟨⟨_, exec_ret_of_concat skip hstack⟩, fun f hf => by simp [instrError, hstack] at hf⟩
  | call nnn =>
    exact answers_of_test (p := s.stack.length ≥ Config.stackCapacity) (fun h => exec_call_of_lt nnn (Nat.not_le.1 h))
      (exec_call_of_ge nnn)
  | drw x y n =>
    by_cases hbad : (s.getV x).toNat ≥ 64 ∨ (s.getV y).toNat ≥ 32 ∨ n.toNat = 0
    · refine .inr ⟨_, exec_drw_of_invalid hbad, fun f => ⟨?_, fun hf => .inl ⟨hbad, hf⟩⟩⟩
      rintro (⟨-, hf⟩ | ⟨hx, hy, hn, -⟩)
      · exact hf
      · omega
    · have hx : (s.getV x).toNat < 64 := by omega
      have hy : (s.getV y).toNat < 32 := by omega
      have hn : n.toNat ≠ 0 := by omega
      obtain hle | hgt := le_or_gt (s.i.toNat + n.toNat) 0x1000
      · refine .inl ⟨⟨_, exec_drw_of_le hx hy hn hle⟩, ?_⟩
        rintro f (⟨h, -⟩ | ⟨-, -, -, h, -⟩)
        · exact hbad h
        · omega
      · refine .inr ⟨_, exec_drw_of_gt hx hy hn hgt, fun f => ⟨?_, fun hf => .inr ⟨hx, hy, hn, hgt, hf⟩⟩⟩
        rintro (⟨h, -⟩ | ⟨-, -, -, -, hf⟩)
        · exact absurd h hbad
        · exact hf
  | ldBVx x =>
    exact answers_of_test (p := s.i.toNat + 2 > 0xFFF) (fun _ => exec_ldBVx_of_le x (by omega))
      fun _ => exec_ldBVx_of_gt x (by omega)
  | ldMemVx x =>
    exact answers_of_test (p := s.i.toNat + x.val > 0xFFF) (fun _ => exec_ldMemVx_of_le (by omega))
      fun _ => exec_ldMemVx_of_gt (by omega)
  | ldVxMem x =>
    exact answers_of_test (p := s.i.toNat + x.val > 0xFFF) (fun _ => exec_ldVxMem_of_le (by omega))
      fun _ => exec_ldVxMem_of_gt (by omega)
  | ldVxK x =>
    rcases hleast : s.leastPressed with _ | k
    · exact .inl ⟨⟨_, exec_ldVxK_of_none x (s.leastPressed_eq_none_iff.1 hleast)⟩, fun f hf => hf⟩
    · obtain ⟨hk, hlt⟩ := (s.leastPressed_eq_some_iff k).1 hleast
      exact .inl ⟨⟨_, exec_ldVxK_of_least x hk hlt⟩, fun f hf => hf⟩
  | _ => exact .inl ⟨⟨_, rfl⟩, fun f hf => hf⟩

theorem exec_eq_fault_iff (i : Instr) (s : State) (f : Fault) : exec i s = .fault f ↔ instrError s i f := by
  rcases exec_answers i s with ⟨⟨t, ht⟩, hnone⟩ | ⟨g, hg, hiff⟩
  · simp [ht, hnone f]
  · rw [hg, hiff, Host.Outcome.fault.injEq, eq_comm]

theorem exec_ne_refused (i : Instr) (s : State) (r : Refusal) : exec i s ≠ .refused r := by
  rcases exec_answers i s with ⟨⟨t, ht⟩, -⟩ | ⟨g, hg, -⟩
  · simp [ht]
  · simp [hg]

/-- No instruction's own error has a code of decoding or of `load` (R140). -/
theorem code_of_instrError {s : State} {i : Instr} {f : Fault} (h : instrError s i f) : 2 ≤ f.code ∧ f.code ≤ 5 := by
  cases i with
  | ret _ | call _ | ldBVx _ | ldMemVx _ | ldVxMem _ =>
    obtain ⟨-, rfl⟩ := h
    simp [Fault.code]
  | drw x y n => rcases h with ⟨-, rfl⟩ | ⟨-, -, -, -, rfl⟩ <;> simp [Fault.code]
  | _ => exact h.elim

/-! ### The errors of a step (R140, R145) -/

/-- A step's error comes from the fetch, from the selection, or from the instruction. -/
theorem step_eq_fault_iff (s : State) (f : Fault) :
    step s = .fault f ↔ s.fetchInstr = .error f ∨ ∃ i, s.fetchInstr = .ok i ∧ instrError s i f := by
  rcases hfetch : s.fetchInstr with g | i
  · simp [step_of_fetchInstr_error hfetch]
  · simp [step_of_fetchInstr hfetch, exec_eq_fault_iff]

end Machine

open Machine

/-- Settles O10: the errors of the fetch and of the selection, and else the instruction's own (R145). -/
theorem stepErrorsAreExactlyThese : Obligations.StepErrorsAreExactlyThese := by
  unfold Obligations.StepErrorsAreExactlyThese
  intro s f
  have hfetch : s.fetch = .error f ↔ s.pc.toNat > 0xFFE ∧ f = .memoryOutOfBounds s.pc.toNat := by
    obtain hle | hgt := le_or_gt s.pc.toNat 0xFFE
    · simp only [State.fetch_of_le hle, reduceCtorEq, false_iff]
      exact fun h => absurd h.1 (Nat.not_lt.2 hle)
    · rw [State.fetch_of_gt hgt, Except.error.injEq, eq_comm]
      exact (and_iff_right hgt).symm
  have hinstr : (∃ i, s.fetchInstr = .ok i ∧ instrError s i f) ↔
      ∃ w i, s.fetch = .ok w ∧ decodeWord w = some i ∧ instrError s i f := by
    simp only [State.fetchInstr_eq_ok_iff]
    constructor
    · rintro ⟨i, ⟨w, hw, hi⟩, herr⟩
      exact ⟨w, i, hw, hi, herr⟩
    · rintro ⟨w, i, hw, hi, herr⟩
      exact ⟨i, ⟨w, hw, hi⟩, herr⟩
  rw [step_eq_fault_iff, State.fetchInstr_eq_error_iff, hfetch, hinstr, or_assoc]

/-- Settles O11: the three sources of a step's error have other codes, and no instruction is refused. -/
theorem stepNeverRefusesNorRaisesTheImpossible : Obligations.StepNeverRefusesNorRaisesTheImpossible := by
  unfold Obligations.StepNeverRefusesNorRaisesTheImpossible
  intro s
  have hcode : ∀ f, step s = .fault f → 1 ≤ f.code ∧ f.code ≤ 5 := fun f hf => by
    rcases (stepErrorsAreExactlyThese s f).1 hf with ⟨-, rfl⟩ | ⟨w, -, -, rfl⟩ | ⟨w, i, -, -, herr⟩
    · simp [Fault.code]
    · simp [Fault.code]
    · obtain ⟨hge, hle⟩ := code_of_instrError herr
      exact ⟨Nat.le_of_succ_le hge, hle⟩
  refine ⟨fun r hr => ?refused, fun h => absurd (hcode _ h).1 (by decide), fun len h => ?romTooLarge⟩
  case refused =>
    rcases hfetch : s.fetchInstr with g | i
    · rw [step_of_fetchInstr_error hfetch] at hr; cases hr
    · exact exec_ne_refused i s r (step_of_fetchInstr hfetch ▸ hr)
  case romTooLarge =>
    have hle := (hcode _ h).2
    simp [Fault.code] at hle

end Sys2Proof
end

section
/-! PROOFS. The statement about what no instruction but DRW reads (10_state.md). -/

namespace Sys2Proof

namespace Machine

/-! ### What no instruction but DRW reads (R28, R30) -/

/-- The state with another sound timer and display. -/
def State.withSoundAndDisplay (s : State) (b : Byte) (g : Display) : State := (s.setSt b).setDisplay g

/-- How the answers of one instruction in `s` and in `s` with another `ST` and display compare: the same error, or next states that
differ at most there, `ST` and the display each as it was unless the instruction writes it. -/
def AnswersAlike (i : Instr) (s : State) (b : Byte) (g : Display) : Prop :=
  (∀ f, exec i s = .fault f → exec i (s.withSoundAndDisplay b g) = .fault f) ∧
  ∀ t, exec i s = .next t → ∃ u, exec i (s.withSoundAndDisplay b g) = .next u ∧
    (u.setSt t.st).setDisplay t.display = t ∧
    ((∀ x, i ≠ .ldStVx x) → u.st = b) ∧ ((∀ k, i ≠ .cls k) → u.display = g)

/-- Instructions that answer the same next state but for `ST` and the display answer alike. -/
theorem AnswersAlike.of_next {i : Instr} {s t : State} {b : Byte} {g : Display} (h : exec i s = .next t)
    (h' : exec i (s.withSoundAndDisplay b g) = .next (t.withSoundAndDisplay b g)) : AnswersAlike i s b g := by
  refine ⟨fun f hf => ?_, fun t' ht' => ?_⟩
  · rw [h] at hf; cases hf
  · obtain rfl : t = t' := Host.Outcome.next.inj (h.symm.trans ht')
    exact ⟨_, h', rfl, fun _ => rfl, fun _ => rfl⟩

/-- Instructions that raise the same error answer alike. -/
theorem AnswersAlike.of_fault {i : Instr} {s : State} {b : Byte} {g : Display} {f : Fault} (h : exec i s = .fault f)
    (h' : exec i (s.withSoundAndDisplay b g) = .fault f) : AnswersAlike i s b g := by
  refine ⟨fun f' hf' => ?_, fun t ht => ?_⟩
  · rw [h', ← h, hf']
  · rw [h] at ht; cases ht

theorem answersAlike {i : Instr} (h : ∀ x y n, i ≠ .drw x y n) (s : State) (b : Byte) (g : Display) :
    AnswersAlike i s b g := by
  cases i with
  | drw x y n => exact absurd rfl (h x y n)
  | cls skip =>
    refine ⟨fun f hf => (nomatch hf), fun t ht => ?_⟩
    cases ht
    exact ⟨_, exec_cls skip _, rfl, fun _ => rfl, fun hcls => absurd rfl (hcls skip)⟩
  | ldStVx x =>
    refine ⟨fun f hf => (nomatch hf), fun t ht => ?_⟩
    cases ht
    exact ⟨_, exec_ldStVx x _, rfl, fun hst => absurd rfl (hst x), fun _ => rfl⟩
  | ret skip =>
    rcases List.eq_nil_or_concat' s.stack with hnil | ⟨rest, a, hstack⟩
    · exact .of_fault (exec_ret_of_nil skip hnil) (exec_ret_of_nil skip hnil)
    · exact .of_next (exec_ret_of_concat skip hstack) (exec_ret_of_concat skip hstack)
  | call nnn =>
    obtain hlt | hge := Nat.lt_or_ge s.stack.length Config.stackCapacity
    · exact .of_next (exec_call_of_lt nnn hlt) (exec_call_of_lt nnn hlt)
    · exact .of_fault (exec_call_of_ge nnn hge) (exec_call_of_ge nnn hge)
  | ldBVx x =>
    obtain hle | hgt := le_or_gt (s.i.toNat + 3) 0x1000
    · exact .of_next (exec_ldBVx_of_le x hle) (exec_ldBVx_of_le x hle)
    · exact .of_fault (exec_ldBVx_of_gt x hgt) (exec_ldBVx_of_gt x hgt)
  | ldMemVx x =>
    obtain hle | hgt := le_or_gt (s.i.toNat + (x.val + 1)) 0x1000
    · exact .of_next (exec_ldMemVx_of_le hle) (exec_ldMemVx_of_le hle)
    · exact .of_fault (exec_ldMemVx_of_gt hgt) (exec_ldMemVx_of_gt hgt)
  | ldVxMem x =>
    obtain hle | hgt := le_or_gt (s.i.toNat + (x.val + 1)) 0x1000
    · exact .of_next (exec_ldVxMem_of_le hle) (exec_ldVxMem_of_le hle)
    · exact .of_fault (exec_ldVxMem_of_gt hgt) (exec_ldVxMem_of_gt hgt)
  | ldVxK x =>
    rcases hleast : s.leastPressed with _ | k
    · have hnone := s.leastPressed_eq_none_iff.1 hleast
      exact .of_next (exec_ldVxK_of_none x hnone) (exec_ldVxK_of_none x hnone)
    · obtain ⟨hk, hlt⟩ := (s.leastPressed_eq_some_iff k).1 hleast
      exact .of_next (exec_ldVxK_of_least x hk hlt) (exec_ldVxK_of_least x hk hlt)
  | _ => exact .of_next rfl rfl

end Machine

open Machine

/-- Settles O50: no meaning but those of FX18, CLS and DRW names `ST` or the display, so both states take the same branch. -/
theorem soundTimerAndDisplayAreNotRead : Obligations.SoundTimerAndDisplayAreNotRead := by
  unfold Obligations.SoundTimerAndDisplayAreNotRead
  exact fun i s b g h => answersAlike h s b g

end Sys2Proof
end

section
/-! PROOFS. The statements about reset, the host's transactions and sessions of them (60_exceptions.md, 70_reset_and_hazards.md), and
about the random oracle (41_register_alu.md). -/

namespace Sys2Proof

namespace Machine

/-! ### The answer of a step, and sessions -/

/-- A step ends `Ok` or with an error. -/
theorem step_answers (s : State) : (∃ t, step s = .next t) ∨ ∃ f, step s = .fault f := by
  rcases hstep : step s with t | f | r
  · exact .inl ⟨t, rfl⟩
  · exact .inr ⟨f, rfl⟩
  · obtain ⟨hrefused, -, -⟩ := stepNeverRefusesNorRaisesTheImpossible s
    exact absurd hstep (hrefused r)

/-- What every transaction of some kind keeps, a session of them keeps. -/
theorem session_induction {P : Bench → Prop} {allowed : Transaction → Prop}
    (hkeep : ∀ b tr, allowed tr → P b → P (transact b tr).1) {b : Bench} (hb : P b) {ts : List Transaction}
    (hts : ∀ tr ∈ ts, allowed tr) : P (session b ts).1 := by
  induction ts generalizing b with
  | nil => exact hb
  | cons tr rest ih =>
    obtain ⟨htr, hrest⟩ := List.forall_mem_cons.1 hts
    exact ih (hkeep b tr htr hb) hrest

/-! ### What an error turns on (R143, R146) -/

/-- Two states that agree on the registers, `I`, `pc` and the stack have the same errors of instructions. -/
theorem instrError_congr {s t : State} (hv : t.v = s.v) (hi : t.i = s.i) (hpc : t.pc = s.pc) (hstack : t.stack = s.stack)
    (i : Instr) (f : Fault) : instrError t i f ↔ instrError s i f := by
  have hget : ∀ r, t.getV r = s.getV r := fun r => by rw [State.getV, hv, State.getV]
  cases i <;> simp only [instrError, hget, hi, hpc, hstack]

/-- Two states that agree there and on memory have the same errors of a step. -/
theorem step_fault_congr {s t : State} (hv : t.v = s.v) (hi : t.i = s.i) (hpc : t.pc = s.pc) (hstack : t.stack = s.stack)
    (hmem : t.mem = s.mem) {f : Fault} (h : step s = .fault f) : step t = .fault f := by
  rw [step_eq_fault_iff] at h ⊢
  simpa only [State.fetchInstr_congr hpc hmem, instrError_congr hv hi hpc hstack] using h

/-- An error stands through every transaction but `load`. -/
theorem transact_keeps_fault {f : Fault} (b : Bench) (tr : Transaction) (htr : ∀ rom, tr ≠ .load rom)
    (h : ∃ s, b = .running s ∧ step s = .fault f) : ∃ t, (transact b tr).1 = .running t ∧ step t = .fault f := by
  obtain ⟨s, rfl, hs⟩ := h
  cases tr with
  | load rom => exact absurd rfl (htr rom)
  | step => exact ⟨s, by rw [transact_step_of_fault hs], hs⟩
  | tick => exact ⟨tick s, rfl, step_fault_congr (s := s) (t := tick s) rfl rfl rfl rfl rfl hs⟩
  | setKey k v => exact ⟨s.setKey k v, rfl, step_fault_congr (s := s) (t := s.setKey k v) rfl rfl rfl rfl rfl hs⟩
  | readFramebuffer | soundActive | snapshot => exact ⟨s, rfl, hs⟩

/-! ### The key wait (R137) -/

/-- A state that differs from `s` at most in the timers. -/
def DiffersInTimers (s t : State) : Prop := t = { s with dt := t.dt, st := t.st }

/-- At an FX0A with no key pressed, a step stays. -/
theorem step_keyWait {s t : State} {x : RegIx} (hfetch : s.fetchInstr = .ok (.ldVxK x)) (hkeys : ∀ k, s.getKey k = false)
    (h : DiffersInTimers s t) : step t = .next t := by
  have hfetch' : t.fetchInstr = .ok (.ldVxK x) := by rw [h, ← hfetch]; exact State.fetchInstr_congr rfl rfl
  have hkeys' : ∀ k, t.getKey k = false := by rw [h]; exact hkeys
  rw [step_of_fetchInstr hfetch', exec_ldVxK_of_none x hkeys']

/-- There, every transaction but `load` and `set_key` leaves all but the timers. -/
theorem transact_keyWait {s : State} {x : RegIx} (hfetch : s.fetchInstr = .ok (.ldVxK x)) (hkeys : ∀ k, s.getKey k = false)
    (b : Bench) (tr : Transaction) (htr : (∀ rom, tr ≠ .load rom) ∧ ∀ k v, tr ≠ .setKey k v)
    (h : ∃ t, b = .running t ∧ DiffersInTimers s t) : ∃ t, (transact b tr).1 = .running t ∧ DiffersInTimers s t := by
  obtain ⟨t, rfl, ht⟩ := h
  obtain ⟨hload, hsetKey⟩ := htr
  cases tr with
  | load rom => exact absurd rfl (hload rom)
  | setKey k v => exact absurd rfl (hsetKey k v)
  | step => exact ⟨t, by rw [transact_step_of_next (step_keyWait hfetch hkeys ht)], ht⟩
  | tick => exact ⟨tick t, rfl, by rw [DiffersInTimers, tick_frame t, ht]⟩
  | readFramebuffer | soundActive | snapshot => exact ⟨t, rfl, ht⟩

/-! ### The random oracle (R106) -/

/-- A draw is in every frame: it changes the model's own count only. -/
theorem onlyRegs_drawRandom (rs : List RegIx) (s : State) : OnlyRegs rs s s.drawRandom.2 := by
  refine ⟨fun r _ => s.drawRandom_getV r, s.drawRandom_i, s.drawRandom_stack, ⟨rfl, rfl⟩, ?display, ?keys, ?memory⟩
  case display => exact fun x y => by rw [s.drawRandom_display]
  case keys => exact fun k => s.drawRandom_getKey k
  case memory => exact fun b => s.drawRandom_readByte b

theorem exec_rnd (x : RegIx) (nn : Byte) (s : State) :
    exec (.rnd x nn) s = .next (s.drawRandom.2.setV x (Config.freeByte s.draws &&& nn)).fallthrough := rfl

/-- No transaction puts the oracle back. -/
theorem draws_le_transact (b : Bench) (tr : Transaction) : b.draws ≤ (transact b tr).1.draws := by
  by_cases hload : ∃ rom, tr = .load rom
  · obtain ⟨rom, rfl⟩ := hload
    rw [transact_load, transactLoad_draws]
  · cases b with
    | empty draws => rw [transact_empty fun rom e => hload ⟨rom, e⟩]
    | running s =>
      cases tr with
      | load rom => exact absurd ⟨rom, rfl⟩ hload
      | step =>
        rcases step_answers s with ⟨t, ht⟩ | ⟨f, hf⟩
        · obtain ⟨i, -, -, hexec⟩ := step_eq_next ht
          rw [transact_step_of_next ht]
          exact (exec_effect hexec).draws_le
        · rw [transact_step_of_fault hf]
      | tick | setKey _ _ | readFramebuffer | soundActive | snapshot => exact Nat.le_refl _

/-! ### Reset and load (R34, R165) -/

theorem reset_getV (r : RegIx) : State.reset.getV r = 0 := Vector.getElem_replicate ..

theorem reset_getKey (k : KeyIx) : State.reset.getKey k = false := Vector.getElem_replicate ..

theorem length_font : Config.font.length = 80 := rfl

/-- Above the font's 80 bytes the reset contents are zero. -/
theorem resetByte_of_ge {a : Nat} (h : 0x50 ≤ a) : resetByte a = 0 :=
  List.getD_eq_default _ _ (length_font.trans_le h)

/-- The reset state with a ROM that fits meets the invariant. -/
theorem inv_of_load {draws : Nat} {rom : List Byte} (h : rom.length ≤ Config.maxRom) :
    ((State.reset.setDraws draws).storeBytes Config.programStart rom).Inv := by
  have hwf : State.reset.mem.wf := ⟨List.Pairwise.nil, List.forall_mem_nil _⟩
  have hfits : 0x200 + rom.length ≤ 0x1000 := Nat.add_le_of_le_sub' (by decide) h
  have hpc : State.reset.pc.toNat ≤ 0x10FE := by decide
  exact ⟨Memory.wf_writeBytes hwf hfits, Nat.zero_le _, List.forall_mem_nil _, hpc⟩

/-! ### The invariant along a session -/

/-- The core, if there is one, meets the invariant. -/
def Bench.Inv (b : Bench) : Prop := ∀ s, b = .running s → s.Inv

theorem Bench.powerOn_inv : Bench.powerOn.Inv := fun _ e => nomatch e

theorem transact_keeps_inv (b : Bench) (tr : Transaction) (h : b.Inv) : (transact b tr).1.Inv := by
  by_cases hload : ∃ rom, tr = .load rom
  · obtain ⟨rom, rfl⟩ := hload
    obtain hle | hgt := le_or_gt rom.length Config.maxRom
    · rw [transact_load, transactLoad_of_le hle]
      rintro _ ⟨⟩
      exact inv_of_load hle
    · rw [transact_load, transactLoad_of_gt hgt]
      exact fun _ e => nomatch e
  · cases b with
    | empty draws =>
      rw [transact_empty fun rom e => hload ⟨rom, e⟩]
      exact h
    | running s =>
      cases tr with
      | load rom => exact absurd ⟨rom, rfl⟩ hload
      | step =>
        rcases step_answers s with ⟨t, ht⟩ | ⟨f, hf⟩
        · rw [transact_step_of_next ht]
          rintro _ ⟨⟩
          exact everyStepKeepsTheInvariant s t (h s rfl) ht
        · rw [transact_step_of_fault hf]
          exact h
      | tick | setKey _ _ => rintro _ ⟨⟩; exact h s rfl
      | readFramebuffer | soundActive | snapshot => exact h

end Machine

open Machine

/-- Settles O31: RND is one draw and one register write, and the mask clears the bits that `nn` clears (R105, R106). -/
theorem randomByteIsMasked : Obligations.RandomByteIsMasked := by
  unfold Obligations.RandomByteIsMasked
  refine ⟨draws_le_transact, fun x nn s => ?drawn⟩
  case drawn =>
    obtain ⟨hvalue, hpc, hframe⟩ := setV_fallthrough_spec s.drawRandom.2 x (Config.freeByte s.draws &&& nn)
    refine ⟨_, exec_rnd x nn s, hvalue, rfl, fun b hb => ?_, hpc, (onlyRegs_drawRandom [x] s).trans hframe⟩
    rw [hvalue, BitVec.getLsbD_and, hb, Bool.and_false]

/-- Settles O53: neither query writes a field (R155, R159). -/
theorem queriesChangeNothing : Obligations.QueriesChangeNothing := by
  unfold Obligations.QueriesChangeNothing
  exact fun s => ⟨transact_readFramebuffer s, transact_snapshot s⟩

/-- Settles O54: nothing that an error turns on is written by a step that fails, by `tick`, `set_key` or a query (R143, R146). -/
theorem errorsLeaveTheStateAndStick : Obligations.ErrorsLeaveTheStateAndStick := by
  unfold Obligations.ErrorsLeaveTheStateAndStick
  intro s f ts hs hload
  obtain ⟨t, ht, hfault⟩ := session_induction transact_keeps_fault ⟨s, rfl, hs⟩ (ts := ts)
    fun tr htr rom e => hload rom (e ▸ htr)
  exact ⟨transact_step_of_fault hs, t, ht, transact_step_of_fault hfault⟩

/-- Settles O55: the step at the wait is the identity, and of the rest only `tick` writes, the timers (R137). -/
theorem keyWaitEndsOnlyByAKey : Obligations.KeyWaitEndsOnlyByAKey := by
  unfold Obligations.KeyWaitEndsOnlyByAKey
  intro s x ts hfetch hkeys hload hsetKey
  exact session_induction (transact_keyWait hfetch hkeys) ⟨s, rfl, rfl⟩
    fun tr htr => ⟨fun rom e => hload rom (e ▸ htr), fun k v e => hsetKey k v (e ▸ htr)⟩

/-- Settles O56: `load` stores the ROM in the reset state as one transfer, or leaves no core (R165, R167). -/
theorem loadPlacesTheRom : Obligations.LoadPlacesTheRom := by
  unfold Obligations.LoadPlacesTheRom
  refine fun rom b => ⟨fun hfits => ⟨_, (transact_load b rom).trans (transactLoad_of_le hfits), ?rom, ?rest, rfl⟩,
    fun hlong => (transact_load b rom).trans (transactLoad_of_gt hlong)⟩
  case rom => exact fun k hk => State.readByte_storeBytes_of_lt _ _ rom k hk
  case rest => exact fun a ha => State.readByte_storeBytes_of_outside _ _ rom a ha

/-- Settles O57: each field of the reset state, and the font as the reset contents of memory (R34, R36). -/
theorem resetState : Obligations.ResetState := by
  unfold Obligations.ResetState
  exact ⟨rfl, rfl, reset_getV, rfl, rfl, rfl, Display.pixel_clear, reset_getKey, length_font, fun d k _ _ => rfl,
    fun a ha => resetByte_of_ge ha, rfl⟩

/-- Settles O58: the reset state is that after a load of no bytes. -/
theorem resetMeetsTheInvariant : Obligations.ResetMeetsTheInvariant := by
  unfold Obligations.ResetMeetsTheInvariant
  exact inv_of_load (draws := 0) (rom := []) (Nat.zero_le _)

/-- Settles O60: at power-on there is no core, and every transaction keeps the invariant of the one there is (R157). -/
theorem everySessionKeepsTheInvariant : Obligations.EverySessionKeepsTheInvariant := by
  unfold Obligations.EverySessionKeepsTheInvariant
  exact fun ts => session_induction (P := Bench.Inv) (allowed := fun _ => True) (fun b tr _ => transact_keeps_inv b tr)
    Bench.powerOn_inv fun _ _ => trivial

end Sys2Proof
end
